-- ==== Sys2Proof/Config.lean ====
section
/-! DEFINITION. What an implementation fixes (spec R4): the one parameter `W`, and the sample range it gives.
The spec leaves no value of the block open (93_implementation_defined.md §1, §2), so there is no free value here. -/

namespace Sys2Proof.Config

/-- The value the spec takes for the width in bits of DATA, of AMP and of every sample (R4).
The width is an argument of the state and of all that works on it; `exec`, `step` and `core`, which the host's interface runs,
are the machine of this width. DESIGN CHOICE (log 1). -/
abbrev W : Nat := 16

/-- The widths a block can have: `W >= 4` (R4), so that STATUS fits. -/
abbrev ValidWidth (w : Nat) : Prop := 4 ≤ w

/-- The spec's own value is one of them. -/
theorem validWidth_W : ValidWidth W := by decide

/-- `SMAX`, the largest sample of width `w` (R4). -/
def smax (w : Nat) : Int := ((2 ^ (w - 1) : Nat) : Int) - 1

/-- `SMIN`, the smallest sample of width `w` (R4). -/
def smin (w : Nat) : Int := -((2 ^ (w - 1) : Nat) : Int)

end Sys2Proof.Config
end

