-- ==== Sys2Proof/Word.lean ====
section
/-! DEFINITION. The words on the block's two ports (spec R40, R49). Bit 0 is the least significant (R31).
A concatenation puts its first part in the more significant bits, so a width reads as high part plus low part. -/

namespace Sys2Proof

/-- The command word `CMD`: `OPC[4:0] ‖ DATA[w-1:0]` (R40). -/
abbrev CmdWord (w : Nat) : Type := BitVec (5 + w)

/-- The response word `RSP`: `ERR[1:0] ‖ DATA[w-1:0]` (R49). -/
abbrev RspWord (w : Nat) : Type := BitVec (2 + w)

end Sys2Proof
end

