-- ==== Sys2Proof/Syntax.lean ====
section
/-! DEFINITION. The syntax of LE-CMD: one constructor per row of spec/opcode_table.json (spec R44, R45, R46). -/

namespace Sys2Proof

/-- A decoded command word.
Every constructor carries the integer `signed_W(DATA)` of its word (R43), the ones that ignore DATA too,
so that no bit of a word is lost (log 7). The reserved rows also carry the OPC bits their row leaves free. -/
inductive Instr where
  /-- `NOP`, OPC 0x00; DATA ignored (R61). -/
  | nop (data : Int)
  /-- `SETAMP a`, OPC 0x01 (R62). -/
  | setamp (a : Int)
  /-- `NEWSEQ`, OPC 0x02; DATA ignored (R63). -/
  | newseq (data : Int)
  /-- `RDSTAT`, OPC 0x03; DATA ignored (R64). -/
  | rdstat (data : Int)
  /-- `ENC.AMI b`, OPC 0x10 (R70). -/
  | encAmi (b : Int)
  /-- `ENC.NRZ b`, OPC 0x11 (R72). -/
  | encNrz (b : Int)
  /-- `MOD.ASK s`, OPC 0x14 (R81). -/
  | modAsk (sym : Int)
  /-- `MOD.BPSK s`, OPC 0x15 (R82). -/
  | modBpsk (sym : Int)
  /-- `DEM.ASK r`, OPC 0x18 (R91). -/
  | demAsk (r : Int)
  /-- `DEM.BPSK r`, OPC 0x19 (R93). -/
  | demBpsk (r : Int)
  /-- `DEC.AMI s`, OPC 0x1C (R101). -/
  | decAmi (sym : Int)
  /-- `DEC.NRZ s`, OPC 0x1D (R103). -/
  | decNrz (sym : Int)
  /-- `RSV.SEL`: a datapath command of unit `unit` whose selector `sel` is unrecognised (R45). -/
  | rsvSel (unit sel : BitVec 2) (data : Int)
  /-- `RSV.CTL.4_7`: a control command with reserved function 4 to 7 (R46). -/
  | rsvCtl4to7 (func : BitVec 4) (data : Int)
  /-- `RSV.CTL.8_15`: a control command with reserved function 8 to 15 (R46). -/
  | rsvCtl8to15 (func : BitVec 4) (data : Int)
  deriving DecidableEq, Repr

/-- The route a modulation selector chooses (R42). -/
inductive Route where
  /-- The AMI/ASK route, `SEL = 00`. -/
  | ask
  /-- The NRZ/BPSK route, `SEL = 01`. -/
  | bpsk
  deriving DecidableEq, Repr

end Sys2Proof
end

