-- ==== Sys2Proof/WellFormed.lean ====
section
/-! DEFINITION. Which terms of `Instr` are commands of the block of width `w`: those that some command word stands for.
An operand outside its class's domain is no defect of form: the machine checks it when it executes (spec R48). -/

namespace Sys2Proof

/-- `dv` is the value of some `w`-bit DATA field: `SMIN <= dv <= SMAX` (R43). -/
def dataFits (w : Nat) (dv : Int) : Bool := decide (Config.smin w ≤ dv) && decide (dv ≤ Config.smax w)

/-- The selector is unrecognised: `SEL[1] = 1` (R45). -/
def selUnrecognised (sel : BitVec 2) : Bool := sel.getLsbD 1

/-- `i` is what some `(w+5)`-bit command word decodes to (R44, R45, R46). -/
def Instr.wellFormed (w : Nat) : Instr → Bool
  | .nop data => dataFits w data
  | .setamp a => dataFits w a
  | .newseq data => dataFits w data
  | .rdstat data => dataFits w data
  | .encAmi b => dataFits w b
  | .encNrz b => dataFits w b
  | .modAsk sym => dataFits w sym
  | .modBpsk sym => dataFits w sym
  | .demAsk r => dataFits w r
  | .demBpsk r => dataFits w r
  | .decAmi sym => dataFits w sym
  | .decNrz sym => dataFits w sym
  | .rsvSel _ sel data => selUnrecognised sel && dataFits w data
  | .rsvCtl4to7 func data => decide (4 ≤ func.toNat) && decide (func.toNat < 8) && dataFits w data
  | .rsvCtl8to15 func data => decide (8 ≤ func.toNat) && dataFits w data

end Sys2Proof
end

