-- ==== Sys2Proof/Decode.lean ====
section
/-! DEFINITION. Decoding and encoding command words (spec R40 to R48), for an arbitrary width `w`.
The decoder is total and never looks at the state (R48); a number wider than the port is refused by name. -/

namespace Sys2Proof

variable {w : Nat}

/-- `signed_W(d)`: the pattern `d` read as two's complement (00_scope.md §6). -/
def signedW (d : BitVec w) : Int := d.toInt

/-- `tc_W(v)`: the `w`-bit two's-complement pattern of `v`, defined by the spec for `SMIN <= v <= SMAX`
(00_scope.md §6); outside that range this function wraps, and no reachable step uses it there (log 6). -/
def tcW (w : Nat) (v : Int) : BitVec w := BitVec.ofInt w v

/-! ### The fields of a command word (R40, R41) -/

/-- `OPC = CMD[w+4:w]`. -/
def opcField (cmd : CmdWord w) : BitVec 5 := cmd.extractLsb' w 5

/-- `DATA = CMD[w-1:0]`. -/
def dataField (cmd : CmdWord w) : BitVec w := cmd.extractLsb' 0 w

/-- `K = OPC[4]`. -/
def kField (opc : BitVec 5) : BitVec 1 := opc.extractLsb' 4 1

/-- `UNIT = OPC[3:2]`. -/
def unitField (opc : BitVec 5) : BitVec 2 := opc.extractLsb' 2 2

/-- `SEL = OPC[1:0]`. -/
def selField (opc : BitVec 5) : BitVec 2 := opc.extractLsb' 0 2

/-- `FUNC = OPC[3:0]`. -/
def funcField (opc : BitVec 5) : BitVec 4 := opc.extractLsb' 0 4

/-! ### The decoder (R48) -/

/-- The route of a selector: `00` ASK, `01` BPSK, `10` and `11` unrecognised (R42). -/
def routeOfSel (sel : BitVec 2) : Option Route :=
  match sel with
  | 0b00#2 => some .ask
  | 0b01#2 => some .bpsk
  | _ => none

/-- A control command (`K = 0`), by its function (R44, R46). -/
def decodeControl (func : BitVec 4) (dv : Int) : Instr :=
  match func with
  | 0b0000#4 => .nop dv
  | 0b0001#4 => .setamp dv
  | 0b0010#4 => .newseq dv
  | 0b0011#4 => .rdstat dv
  | f => if f.toNat < 8 then .rsvCtl4to7 f dv else .rsvCtl8to15 f dv

/-- A datapath command (`K = 1`), by its unit and its route (R42, R44, R45). -/
def decodeDatapath (unit sel : BitVec 2) (dv : Int) : Instr :=
  match routeOfSel sel, unit with
  | none, u => .rsvSel u sel dv
  | some .ask, 0b00#2 => .encAmi dv
  | some .bpsk, 0b00#2 => .encNrz dv
  | some .ask, 0b01#2 => .modAsk dv
  | some .bpsk, 0b01#2 => .modBpsk dv
  | some .ask, 0b10#2 => .demAsk dv
  | some .bpsk, 0b10#2 => .demBpsk dv
  | some .ask, _ => .decAmi dv
  | some .bpsk, _ => .decNrz dv

/-- Decoding by OPC, the operand already read (R48). -/
def decodeOpc (opc : BitVec 5) (dv : Int) : Instr :=
  if kField opc = 0#1 then decodeControl (funcField opc) dv
  else decodeDatapath (unitField opc) (selField opc) dv

/-- The decoder of R48, total on `(w+5)`-bit words. -/
def decode (cmd : CmdWord w) : Instr := decodeOpc (opcField cmd) (signedW (dataField cmd))

/-- Why a number is no command word. -/
inductive DecodeError where
  /-- The number needs more bits than the command port has; raised by `decodeNat`. Safe: no such word can be presented. -/
  | widerThanPort
  deriving DecidableEq, Repr

/-- A number read as a command word of width `w`, if the port is wide enough for it (R40). -/
def cmdWordOfNat (w n : Nat) : Except DecodeError (CmdWord w) :=
  if n < 2 ^ (5 + w) then .ok (BitVec.ofNat (5 + w) n) else .error .widerThanPort

/-- Decoding a number: the command of the word it is, or a refusal by name. -/
def decodeNat (w n : Nat) : Except DecodeError Instr :=
  match cmdWordOfNat w n with
  | .ok cmd => .ok (decode cmd)
  | .error e => .error e

/-- The decoder as the opcode table numbers an instruction's bits: the low `nbits` bits of `word`, all others 0.
The command word is one indivisible 21-bit word (R31), so there is no layout of words or bytes to choose. -/
def decodeTableWord (nbits word : Nat) : Option Instr := (decodeNat Config.W (word % 2 ^ nbits)).toOption

/-! ### The encoder (R44, R45, R46) -/

/-- The OPC of a command: the column `OPC` of R44, and for the reserved rows the bits of R41. -/
def Instr.opcode : Instr → BitVec 5
  | .nop _ => 0x00#5
  | .setamp _ => 0x01#5
  | .newseq _ => 0x02#5
  | .rdstat _ => 0x03#5
  | .encAmi _ => 0x10#5
  | .encNrz _ => 0x11#5
  | .modAsk _ => 0x14#5
  | .modBpsk _ => 0x15#5
  | .demAsk _ => 0x18#5
  | .demBpsk _ => 0x19#5
  | .decAmi _ => 0x1C#5
  | .decNrz _ => 0x1D#5
  | .rsvSel unit sel _ => 1#1 ++ unit ++ sel
  | .rsvCtl4to7 func _ => 0#1 ++ func
  | .rsvCtl8to15 func _ => 0#1 ++ func

/-- The integer on a command's DATA field (R43). -/
def Instr.operand : Instr → Int
  | .nop data => data
  | .setamp a => a
  | .newseq data => data
  | .rdstat data => data
  | .encAmi b => b
  | .encNrz b => b
  | .modAsk sym => sym
  | .modBpsk sym => sym
  | .demAsk r => r
  | .demBpsk r => r
  | .decAmi sym => sym
  | .decNrz sym => sym
  | .rsvSel _ _ data => data
  | .rsvCtl4to7 _ data => data
  | .rsvCtl8to15 _ data => data

/-- The command word of a command: `OPC ‖ DATA` (R40). -/
def encode (w : Nat) (i : Instr) : CmdWord w := i.opcode ++ tcW w i.operand

/-! ### The opcode map as a table (R44 to R46, opcode_table.json) -/

/-- One row of the opcode map: `OPC & mask = value`. -/
structure OpcRow where
  mnemonic : String
  mask : BitVec 5
  value : BitVec 5
  deriving DecidableEq, Repr

/-- `opc` is one of the row's codes. -/
def OpcRow.selects (row : OpcRow) (opc : BitVec 5) : Bool := opc &&& row.mask == row.value

/-- The row a command belongs to, with its mnemonic, its `opc_mask` and its `opc_match`. -/
def Instr.row : Instr → OpcRow
  | .nop _ => ⟨"NOP", 0x1F#5, 0x00#5⟩
  | .setamp _ => ⟨"SETAMP", 0x1F#5, 0x01#5⟩
  | .newseq _ => ⟨"NEWSEQ", 0x1F#5, 0x02#5⟩
  | .rdstat _ => ⟨"RDSTAT", 0x1F#5, 0x03#5⟩
  | .encAmi _ => ⟨"ENC.AMI", 0x1F#5, 0x10#5⟩
  | .encNrz _ => ⟨"ENC.NRZ", 0x1F#5, 0x11#5⟩
  | .modAsk _ => ⟨"MOD.ASK", 0x1F#5, 0x14#5⟩
  | .modBpsk _ => ⟨"MOD.BPSK", 0x1F#5, 0x15#5⟩
  | .demAsk _ => ⟨"DEM.ASK", 0x1F#5, 0x18#5⟩
  | .demBpsk _ => ⟨"DEM.BPSK", 0x1F#5, 0x19#5⟩
  | .decAmi _ => ⟨"DEC.AMI", 0x1F#5, 0x1C#5⟩
  | .decNrz _ => ⟨"DEC.NRZ", 0x1F#5, 0x1D#5⟩
  | .rsvSel _ _ _ => ⟨"RSV.SEL", 0x12#5, 0x12#5⟩
  | .rsvCtl4to7 _ _ => ⟨"RSV.CTL.4_7", 0x1C#5, 0x04#5⟩
  | .rsvCtl8to15 _ _ => ⟨"RSV.CTL.8_15", 0x18#5, 0x08#5⟩

/-- The fifteen rows of opcode_table.json, in its order. -/
def opcTable : List OpcRow :=
  [(Instr.nop 0).row, (Instr.setamp 0).row, (Instr.newseq 0).row, (Instr.rdstat 0).row,
   (Instr.encAmi 0).row, (Instr.encNrz 0).row, (Instr.modAsk 0).row, (Instr.modBpsk 0).row,
   (Instr.demAsk 0).row, (Instr.demBpsk 0).row, (Instr.decAmi 0).row, (Instr.decNrz 0).row,
   (Instr.rsvSel 0 2 0).row, (Instr.rsvCtl4to7 4 0).row, (Instr.rsvCtl8to15 8 0).row]

end Sys2Proof
end

