-- ==== Sys2Proof/Machine/State.lean ====
section
/-! DEFINITION. The state of the machine, as plain data: the block's four fields (spec R10) and its two ports (R150).
The block has no general register, no program counter, no memory and no hidden state (R15 to R20, R30). -/

namespace Sys2Proof.Machine

/-- A fault cause, the content of the 2-bit field `FAULT` and of `ERR` (R13, R130). All four codes are in use.
It is state of the block, not an outcome of a step: a command that raises a cause takes the fault entry of R135. -/
inductive Cause where
  /-- `NONE`, code 0. -/
  | noFault
  /-- `INVALID_MODULATION`, code 1. -/
  | invalidModulation
  /-- `INVALID_PARAMETER`, code 2. -/
  | invalidParameter
  /-- `ILLEGAL_COMMAND`, code 3. -/
  | illegalCommand
  deriving DecidableEq, Repr

/-- The architectural state `S` of a block of width `w`: exactly the four fields of R10. -/
structure Block (w : Nat) where
  /-- `AMI_PAR`: parity of the number of 1-bits encoded in the current sequence (R11). -/
  amiPar : Bool
  /-- `AMP`: the amplitude, two's complement (R12). -/
  amp : BitVec w
  /-- `AMP_V`: AMP holds a validated amplitude (R12). -/
  ampV : Bool
  /-- `FAULT`: the cause of the first fault since reset (R13). -/
  fault : Cause
  deriving DecidableEq, Repr

/-- A response `(ERR, DATA)` (R49). -/
structure Response (w : Nat) where
  err : Cause
  data : BitVec w
  deriving DecidableEq, Repr

/-- What the host drives on the input pins in one clock cycle (R150). -/
structure PortIn (w : Nat) where
  rst : Bool
  cmdValid : Bool
  cmd : CmdWord w
  deriving DecidableEq, Repr

/-- The machine of a width: the block and its ports. The width is the block's one parameter (R4); not given, it is the value
the spec takes, so that `State` alone is the state of the machine that `exec`, `step` and `core` run (log 1). -/
structure State (w : Nat := Config.W) where
  /-- The block's architectural state (R10). -/
  block : Block w
  /-- The input pins in the cycles to come, the next cycle first; past its end the host presents nothing (log 2). -/
  inputs : List (PortIn w)
  /-- The response port in the cycle just done: `none` when `rsp_valid = 0`, where RSP may not be read (R150, log 3). -/
  rsp : Option (Response w)
  deriving DecidableEq, Repr

/-- Why the machine stops with a fault: never.
Every command in every state has a next state (R60, R140), and a fault of the block is one of these next states (R135). -/
inductive Fault : Type where
  deriving DecidableEq, Repr

/-- Why a command has no meaning. The spec refuses no form (R140), so `notModelled` is raised by no arm. -/
inductive Refusal where
  /-- An instruction the model gives no meaning, by its mnemonic; raised by exec's arms only. Safe. -/
  | notModelled (mnemonic : String)
  deriving DecidableEq, Repr

/-- What the execution of a command gives: the block after it, and its response. -/
abbrev Result (w : Nat) : Type := Block w × Response w

/-- The reset values of R22. -/
def Block.reset (w : Nat) : Block w where
  amiPar := false
  amp := 0#w
  ampV := false
  fault := .noFault

/-- The machine of a width right after reset (R151, R152): the block at its reset values, nothing presented, no response
(log 2, 3). -/
def State.resetAt (w : Nat) : State w where
  block := Block.reset w
  inputs := []
  rsp := none

/-- The machine of the spec's width right after reset. -/
def State.reset : State := State.resetAt Config.W

end Sys2Proof.Machine
end

