-- ==== Sys2Proof/Machine/Operands.lean ====
section
/-! DEFINITION. Operand and result classes (spec R43, R50). -/

namespace Sys2Proof.Machine

/-- `is_bit(v)` (00_scope.md §7). -/
def isBit (v : Int) : Bool := decide (v = 0) || decide (v = 1)

/-- `is_sym(v)` (00_scope.md §7). -/
def isSym (v : Int) : Bool := decide (v = -1) || decide (v = 0) || decide (v = 1)

/-- The operand classes of R43. -/
inductive OperandClass where
  | ignored
  | bit
  | symbol
  | sample
  | amplitude
  deriving DecidableEq, Repr

/-- The domain of a class: which `dv` a command of the class accepts (R43). -/
def OperandClass.admits (w : Nat) : OperandClass → Int → Bool
  | .ignored, _ => true
  | .bit, dv => isBit dv
  | .symbol, dv => isSym dv
  | .sample, dv => dataFits w dv
  | .amplitude, dv => decide (1 ≤ dv) && decide (dv ≤ Config.smax w)

/-- The operand class of a command (R44); the reserved codes ignore DATA (R45, R46). -/
def operandClass : Instr → OperandClass
  | .nop _ => .ignored
  | .setamp _ => .amplitude
  | .newseq _ => .ignored
  | .rdstat _ => .ignored
  | .encAmi _ => .bit
  | .encNrz _ => .bit
  | .modAsk _ => .symbol
  | .modBpsk _ => .symbol
  | .demAsk _ => .sample
  | .demBpsk _ => .sample
  | .decAmi _ => .symbol
  | .decNrz _ => .symbol
  | .rsvSel _ _ _ => .ignored
  | .rsvCtl4to7 _ _ => .ignored
  | .rsvCtl8to15 _ _ => .ignored

/-- The result classes of R50. -/
inductive ResultClass where
  | empty
  | bit
  | symbol
  | sample
  | status
  deriving DecidableEq, Repr

/-- The DATA values of a result class (R50); a status result is the view `status` of the state it was read from. -/
def ResultClass.admits (status : BitVec w) : ResultClass → BitVec w → Bool
  | .empty, d => decide (d = 0#w)
  | .bit, d => decide (d = tcW w 0) || decide (d = tcW w 1)
  | .symbol, d => decide (d = tcW w (-1)) || decide (d = tcW w 0) || decide (d = tcW w 1)
  | .sample, d => decide (-Config.smax w ≤ signedW d) && decide (signedW d ≤ Config.smax w)
  | .status, d => decide (d = status)

/-- The result class of a command (R44); a reserved code has no result (R45, R46). -/
def resultClass : Instr → ResultClass
  | .nop _ => .empty
  | .setamp _ => .empty
  | .newseq _ => .empty
  | .rdstat _ => .status
  | .encAmi _ => .symbol
  | .encNrz _ => .symbol
  | .modAsk _ => .sample
  | .modBpsk _ => .sample
  | .demAsk _ => .symbol
  | .demBpsk _ => .symbol
  | .decAmi _ => .bit
  | .decNrz _ => .bit
  | .rsvSel _ _ _ => .empty
  | .rsvCtl4to7 _ _ => .empty
  | .rsvCtl8to15 _ _ => .empty

end Sys2Proof.Machine
end

