-- ==== Sys2Proof/Machine/Flags.lean ====
section
/-! DEFINITION. The block's two flags and the STATUS view (spec R11, R14, R17, R71, R130). -/

namespace Sys2Proof.Machine

variable {w : Nat}

/-- `ami(p, b)`: the symbol of a bit `b` after `p` (odd?) earlier 1-bits, and the next parity (R71).
The first argument is AMI_PAR. ENC.AMI applies it to 0 and 1 only; on other integers DESIGN CHOICE, log 16. -/
def ami (p : Bool) (b : Int) : Int × Bool :=
  if b = 0 then (0, p)
  else if p then (-1, false)
  else (1, true)

/-- The code of a cause, as FAULT and ERR hold it (R130). -/
def Cause.code : Cause → BitVec 2
  | .noFault => 0#2
  | .invalidModulation => 1#2
  | .invalidParameter => 2#2
  | .illegalCommand => 3#2

/-- `status(S) = (FAULT << 2) | (AMP_V << 1) | AMI_PAR`, zero-extended (R14). -/
def Block.status (b : Block w) : BitVec w :=
  (b.fault.code.setWidth w <<< 2) ||| ((BitVec.ofBool b.ampV).setWidth w <<< 1) |||
    (BitVec.ofBool b.amiPar).setWidth w

/-- The response word: `ERR ‖ DATA` (R49). -/
def Response.word (r : Response w) : RspWord w := r.err.code ++ r.data

end Sys2Proof.Machine
end

