-- ==== Sys2Proof/Machine/Ops.lean ====
section
/-! DEFINITION. The operations the meanings share: writing the block's fields, responding, fault entry (spec R135),
the refusal of a faulted block (R136), reset, the only way out of a fault (R137, R151), and the ports (R150, R153). -/

namespace Sys2Proof.Machine

variable {w : Nat}

/-! ### Writing fields (00_scope.md §7, `S.F <- v`) -/

/-- `S.AMI_PAR <- p`. -/
def Block.setAmiPar (b : Block w) (p : Bool) : Block w := { b with amiPar := p }

/-- `S.AMP <- a; S.AMP_V <- 1`: no command writes the one without the other (R62). -/
def Block.setAmp (b : Block w) (a : BitVec w) : Block w := { b with amp := a, ampV := true }

/-- `S.FAULT <- c`. -/
def Block.setFault (b : Block w) (c : Cause) : Block w := { b with fault := c }

/-- The amplitude as an integer, `signed_W(S.AMP)` (R12). -/
def Block.amplitude (b : Block w) : Int := signedW b.amp

/-! ### Responding, raising, refusing -/

/-- `respond(NONE, data)`: the command executed (R49). -/
def Block.respond (b : Block w) (data : BitVec w) : Result w := (b, ⟨.noFault, data⟩)

/-- Taking a fault, `raise C` (R135): FAULT takes the cause, nothing else is written, the response is `(code(C), 0)`. -/
def Block.raise (b : Block w) (c : Cause) : Result w := (b.setFault c, ⟨c, 0#w⟩)

/-- The answer of a faulted block to every command but RDSTAT (R136): no state written, `(S.FAULT, 0)`. -/
def Block.refuse (b : Block w) : Result w := (b, ⟨b.fault, 0#w⟩)

/-- The first test of a step (R60, R134): a faulted block refuses, a block without a fault does `body`. -/
def Block.unlessFaulted (b : Block w) (body : Result w) : Result w :=
  if b.fault = .noFault then body else b.refuse

/-- The checks of R134 test 3, all of one cause: `body` if `ok` holds, else INVALID_PARAMETER. -/
def Block.checked (b : Block w) (ok : Bool) (body : Result w) : Result w :=
  if ok then body else b.raise .invalidParameter

/-! ### The ports -/

/-- A command's result as the machine's next state: the block after it, and its response on the port (R49). -/
def State.answer (s : State w) (r : Result w) : Host.Outcome (State w) Fault Refusal :=
  .next { s with block := r.1, rsp := some r.2 }

/-- A cycle with `rst = 1`: every field of the block takes its reset value, and there is no response (R150, R151).
This is the only return from a fault (R137). -/
def State.resetCycle (s : State w) : State w := { s with block := Block.reset w, rsp := none }

/-- An idle cycle: no state of the block changes, and there is no response (R153). -/
def State.idleCycle (s : State w) : State w := { s with rsp := none }

/-- What a cycle asks of the block. -/
inductive Cycle (w : Nat) where
  /-- `rst = 1` (R150). -/
  | reset
  /-- `rst = 0`, `cmd_valid = 1`: the word is accepted (R40). -/
  | command (cmd : CmdWord w)
  /-- `rst = 0`, `cmd_valid = 0` (R153). -/
  | idle
  deriving DecidableEq, Repr

/-- Reset wins over a command presented in the same cycle (R150). -/
def PortIn.cycle (p : PortIn w) : Cycle w :=
  if p.rst then .reset
  else if p.cmdValid then .command p.cmd
  else .idle

/-- The cycle the block sees now: the next of the input pins; past their end nothing is presented, an idle cycle (log 2). -/
def State.cycle (s : State w) : Cycle w :=
  match s.inputs with
  | [] => .idle
  | p :: _ => p.cycle

/-- The machine with the input pins moved on by one cycle. -/
def State.nextCycle (s : State w) : State w := { s with inputs := s.inputs.tail }

/-- One clock cycle of a machine of which `execute` says what a command does (R60, R150, R153): the cycle the input pins show
next, a reset, an idle cycle, or the execution of the command presented. -/
def State.cycleWith (execute : Instr → State w → Host.Outcome (State w) Fault Refusal) (s : State w) :
    Host.Outcome (State w) Fault Refusal :=
  match s.cycle with
  | .reset => .next s.nextCycle.resetCycle
  | .idle => .next s.nextCycle.idleCycle
  | .command cmd => execute (decode cmd) s.nextCycle

/-- Pins that present the command word `cmd` (R40). -/
def PortIn.word (cmd : CmdWord w) : PortIn w := ⟨false, true, cmd⟩

/-- Pins that present nothing (R153). The command bits are not looked at (log 2). -/
def PortIn.nothing (w : Nat) : PortIn w := ⟨false, false, 0⟩

/-- The pins in the cycle in which the host presents the number `n`: a number too wide for the port cannot be presented (log 4). -/
def PortIn.number (w n : Nat) : PortIn w :=
  match cmdWordOfNat w n with
  | .ok cmd => .word cmd
  | .error _ => .nothing w

end Sys2Proof.Machine
end

