-- ==== Sys2Proof/Machine/Control.lean ====
section
/-! DEFINITION. The control commands NOP, SETAMP, NEWSEQ and RDSTAT (spec R61 to R64). -/

namespace Sys2Proof.Machine

variable {w : Nat}

/-- `NOP` (R61). -/
def Block.nop (b : Block w) : Result w := b.unlessFaulted (b.respond 0#w)

/-- `SETAMP a` (R62): a non-positive amplitude is refused with INVALID_PARAMETER and the old one kept. -/
def Block.setamp (a : Int) (b : Block w) : Result w :=
  b.unlessFaulted (if a ≤ 0 then b.raise .invalidParameter else (b.setAmp (tcW w a)).respond 0#w)

/-- `NEWSEQ` (R63). -/
def Block.newseq (b : Block w) : Result w := b.unlessFaulted ((b.setAmiPar false).respond 0#w)

/-- `RDSTAT` (R64): the one command a faulted block answers with data (R136). -/
def Block.rdstat (b : Block w) : Result w := (b, ⟨b.fault, b.status⟩)

def execNop (_data : Int) (s : State w) : Host.Outcome (State w) Fault Refusal := s.answer s.block.nop

def execSetamp (a : Int) (s : State w) : Host.Outcome (State w) Fault Refusal := s.answer (s.block.setamp a)

def execNewseq (_data : Int) (s : State w) : Host.Outcome (State w) Fault Refusal := s.answer s.block.newseq

def execRdstat (_data : Int) (s : State w) : Host.Outcome (State w) Fault Refusal := s.answer s.block.rdstat

end Sys2Proof.Machine
end

