-- ==== Sys2Proof/Machine/Demodulator.lean ====
section
/-! DEFINITION. The threshold demodulator, DEM.ASK and DEM.BPSK (spec R90 to R94). -/

namespace Sys2Proof.Machine

variable {w : Nat}

/-- `slice_ask(r, A)` as the block evaluates it: integer comparisons, no division, no wrap-around (R94).
Both thresholds are strict (R90). For `a <= 0`, which no reachable block holds as its amplitude, the spec gives no value: what this
total function gives there is the model's (DESIGN CHOICE, log 15). -/
def sliceAsk (r a : Int) : Int :=
  if 2 * r > a then 1
  else if 2 * r < -a then -1
  else 0

/-- `slice_bpsk(r, A)`: the sign of the sample, with 0 giving +1 (R92, R94; for `A <= 0` DESIGN CHOICE, log 15). -/
def sliceBpsk (r _a : Int) : Int := if 0 ≤ r then 1 else -1

/-- `DEM.ASK r` (R91): it needs an amplitude; every sample is in its domain. -/
def Block.demAsk (r : Int) (b : Block w) : Result w :=
  b.unlessFaulted <| b.checked b.ampV <| b.respond (tcW w (sliceAsk r b.amplitude))

/-- `DEM.BPSK r` (R93): it needs an amplitude although its value does not matter. -/
def Block.demBpsk (r : Int) (b : Block w) : Result w :=
  b.unlessFaulted <| b.checked b.ampV <| b.respond (tcW w (sliceBpsk r b.amplitude))

def execDemAsk (r : Int) (s : State w) : Host.Outcome (State w) Fault Refusal := s.answer (s.block.demAsk r)

def execDemBpsk (r : Int) (s : State w) : Host.Outcome (State w) Fault Refusal := s.answer (s.block.demBpsk r)

end Sys2Proof.Machine
end

