-- ==== Sys2Proof/Machine/LineEncoder.lean ====
section
/-! DEFINITION. The line encoder, ENC.AMI and ENC.NRZ (spec R70 to R73). -/

namespace Sys2Proof.Machine

variable {w : Nat}

/-- `nrz(b) = 2*b - 1`: -1 for 0, +1 for 1 (R73; on other integers DESIGN CHOICE, log 16: ENC.NRZ refuses them). -/
def nrz (b : Int) : Int := 2 * b - 1

/-- `ENC.AMI b` (R70): a 1-bit toggles AMI_PAR, a 0-bit does not. -/
def Block.encAmi (bit : Int) (b : Block w) : Result w :=
  b.unlessFaulted <| b.checked (isBit bit) <|
    (b.setAmiPar (ami b.amiPar bit).2).respond (tcW w (ami b.amiPar bit).1)

/-- `ENC.NRZ b` (R72): no state is read or written. -/
def Block.encNrz (bit : Int) (b : Block w) : Result w :=
  b.unlessFaulted <| b.checked (isBit bit) <| b.respond (tcW w (nrz bit))

def execEncAmi (bit : Int) (s : State w) : Host.Outcome (State w) Fault Refusal := s.answer (s.block.encAmi bit)

def execEncNrz (bit : Int) (s : State w) : Host.Outcome (State w) Fault Refusal := s.answer (s.block.encNrz bit)

end Sys2Proof.Machine
end

