-- ==== Sys2Proof/Machine/Modulator.lean ====
section
/-! DEFINITION. The modulator, MOD.ASK and MOD.BPSK (spec R80 to R82). -/

namespace Sys2Proof.Machine

variable {w : Nat}

/-- `mod(s, A) = s * A`, the exact integer product (R80; for `A <= 0` DESIGN CHOICE, log 15; for `s` that is no symbol DESIGN CHOICE,
log 16: the MOD commands refuse it). -/
def modulateSymbol (sym a : Int) : Int := sym * a

/-- `MOD.ASK s` (R81): it needs an amplitude and a symbol. -/
def Block.modAsk (sym : Int) (b : Block w) : Result w :=
  b.unlessFaulted <| b.checked (b.ampV && isSym sym) <| b.respond (tcW w (modulateSymbol sym b.amplitude))

/-- `MOD.BPSK s` (R82): its behaviour is that of MOD.ASK, the symbol 0 included. -/
def Block.modBpsk (sym : Int) (b : Block w) : Result w :=
  b.unlessFaulted <| b.checked (b.ampV && isSym sym) <| b.respond (tcW w (modulateSymbol sym b.amplitude))

def execModAsk (sym : Int) (s : State w) : Host.Outcome (State w) Fault Refusal := s.answer (s.block.modAsk sym)

def execModBpsk (sym : Int) (s : State w) : Host.Outcome (State w) Fault Refusal := s.answer (s.block.modBpsk sym)

end Sys2Proof.Machine
end

