-- ==== Sys2Proof/Machine/Reserved.lean ====
section
/-! DEFINITION. The reserved encodings: they raise their fault whatever their free bits are (spec R45, R46). -/

namespace Sys2Proof.Machine

variable {w : Nat}

/-- An unrecognised selector raises INVALID_MODULATION and does nothing else (R45). -/
def Block.badSelector (b : Block w) : Result w := b.unlessFaulted (b.raise .invalidModulation)

/-- A reserved control code raises ILLEGAL_COMMAND and does nothing else (R46). -/
def Block.reservedControl (b : Block w) : Result w := b.unlessFaulted (b.raise .illegalCommand)

def execRsvSel (_unit _sel : BitVec 2) (_data : Int) (s : State w) : Host.Outcome (State w) Fault Refusal :=
  s.answer s.block.badSelector

def execRsvCtl4to7 (_func : BitVec 4) (_data : Int) (s : State w) : Host.Outcome (State w) Fault Refusal :=
  s.answer s.block.reservedControl

def execRsvCtl8to15 (_func : BitVec 4) (_data : Int) (s : State w) : Host.Outcome (State w) Fault Refusal :=
  s.answer s.block.reservedControl

end Sys2Proof.Machine
end

