-- ==== Sys2Proof/Machine/SymbolDecoder.lean ====
section
/-! DEFINITION. The symbol decoder, DEC.AMI and DEC.NRZ (spec R100 to R103). -/

namespace Sys2Proof.Machine

variable {w : Nat}

/-- `dec_ami(s)`: 0 for the symbol 0, 1 for either other symbol (R100; on other integers DESIGN CHOICE, log 16: DEC.AMI
refuses them). -/
def decAmiBit (sym : Int) : Int := if sym = 0 then 0 else 1

/-- `dec_nrz(s)`: 1 for `s >= 0`, the symbol 0 included, else 0 (R102). -/
def decNrzBit (sym : Int) : Int := if 0 ≤ sym then 1 else 0

/-- `DEC.AMI s` (R101): no state is read or written. -/
def Block.decAmi (sym : Int) (b : Block w) : Result w :=
  b.unlessFaulted <| b.checked (isSym sym) <| b.respond (tcW w (decAmiBit sym))

/-- `DEC.NRZ s` (R103): no state is read or written. -/
def Block.decNrz (sym : Int) (b : Block w) : Result w :=
  b.unlessFaulted <| b.checked (isSym sym) <| b.respond (tcW w (decNrzBit sym))

def execDecAmi (sym : Int) (s : State w) : Host.Outcome (State w) Fault Refusal := s.answer (s.block.decAmi sym)

def execDecNrz (sym : Int) (s : State w) : Host.Outcome (State w) Fault Refusal := s.answer (s.block.decNrz sym)

end Sys2Proof.Machine
end

