-- ==== Sys2Proof/Machine/Dispatch.lean ====
section
/-! DEFINITION. What each command does: one arm per constructor of Instr (spec R60). -/

namespace Sys2Proof.Machine

-- Every meaning makes the sticky-fault test of R60 itself, through Block.unlessFaulted; RDSTAT alone goes without it.
def exec (i : Instr) (s : State) : Host.Outcome State Fault Refusal :=
  match i with
  | .nop data => Sys2Proof.Machine.execNop data s
  | .setamp a => Sys2Proof.Machine.execSetamp a s
  | .newseq data => Sys2Proof.Machine.execNewseq data s
  | .rdstat data => Sys2Proof.Machine.execRdstat data s
  | .encAmi b => Sys2Proof.Machine.execEncAmi b s
  | .encNrz b => Sys2Proof.Machine.execEncNrz b s
  | .modAsk sym => Sys2Proof.Machine.execModAsk sym s
  | .modBpsk sym => Sys2Proof.Machine.execModBpsk sym s
  | .demAsk r => Sys2Proof.Machine.execDemAsk r s
  | .demBpsk r => Sys2Proof.Machine.execDemBpsk r s
  | .decAmi sym => Sys2Proof.Machine.execDecAmi sym s
  | .decNrz sym => Sys2Proof.Machine.execDecNrz sym s
  | .rsvSel unit sel data => Sys2Proof.Machine.execRsvSel unit sel data s
  | .rsvCtl4to7 func data => Sys2Proof.Machine.execRsvCtl4to7 func data s
  | .rsvCtl8to15 func data => Sys2Proof.Machine.execRsvCtl8to15 func data s

end Sys2Proof.Machine
end

