-- ==== Sys2Proof/Machine/Step.lean ====
section
/-! DEFINITION. One step: one clock cycle of the block (spec R60, R150, R153). -/

namespace Sys2Proof.Machine

/-- One clock cycle of the machine of the spec's width, whose commands `exec` runs. -/
def step (s : State) : Host.Outcome State Fault Refusal := s.cycleWith exec

/-- `s` with the command word that `word` is presented in the very next cycle, before whatever the host presents later (log 4). -/
def State.withFetchWord (s : State) (nbits word : Nat) : State :=
  { s with inputs := PortIn.number Config.W (word % 2 ^ nbits) :: s.inputs }

end Sys2Proof.Machine
end

