-- ==== Sys2Proof/Machine/AnyWidth.lean ====
section
/-! DEFINITION. The machine of any width: the spec states its rules for general `W` (R4), and a model takes `W` as an argument.
`exec`, `step` and `core` are this machine at the width `Config.W` (the laws `exec_eq_execAt`, `step_eq_stepAt`, `core_eq_coreAt`). -/

namespace Sys2Proof.Machine

variable {w : Nat}

/-- What a block of width `w` does with a decoded command (R60). -/
def Block.command (b : Block w) : Instr → Result w
  | .nop _ => b.nop
  | .setamp a => b.setamp a
  | .newseq _ => b.newseq
  | .rdstat _ => b.rdstat
  | .encAmi bit => b.encAmi bit
  | .encNrz bit => b.encNrz bit
  | .modAsk sym => b.modAsk sym
  | .modBpsk sym => b.modBpsk sym
  | .demAsk r => b.demAsk r
  | .demBpsk r => b.demBpsk r
  | .decAmi sym => b.decAmi sym
  | .decNrz sym => b.decNrz sym
  | .rsvSel _ _ _ => b.badSelector
  | .rsvCtl4to7 _ _ => b.reservedControl
  | .rsvCtl8to15 _ _ => b.reservedControl

/-- `step(S, CMD)` of R60: exactly one next state and exactly one response for every state and every word. -/
def Block.step (b : Block w) (cmd : CmdWord w) : Result w := b.command (decode cmd)

/-- The execution of a command on a machine of width `w`: the block's result, its response on the port (R49, R60). -/
def execAt (i : Instr) (s : State w) : Host.Outcome (State w) Fault Refusal := s.answer (s.block.command i)

/-- One clock cycle of a machine of width `w` (R60, R150, R153). -/
def stepAt (s : State w) : Host.Outcome (State w) Fault Refusal := s.cycleWith execAt

/-- The machine of a width, behind the host's interface: there is one for every `W >= 4` and for no other `W` (R4). -/
def coreAt (w : Nat) (_valid : Config.ValidWidth w) : Host.Core where
  State := State w
  Fault := Fault
  Refusal := Refusal
  step := stepAt
  reset := State.resetAt w

end Sys2Proof.Machine
end

