-- ==== Sys2Proof/Machine/Assembler.lean ====
section
/-! DEFINITION. The assembler syntax of the spec, one command a line (R51). Not part of the block: no step uses it. -/

namespace Sys2Proof.Machine

/-- Why a line does not assemble. -/
inductive AsmError where
  /-- The first word is none of the twelve mnemonics of R44. -/
  | unknownMnemonic
  /-- A command with an operand class other than none has no operand, or one without has one, or there are two. -/
  | operandCount
  /-- The operand is no signed decimal and no `0x` pattern of `w` bits. -/
  | badOperand
  deriving DecidableEq, Repr

/-- `;` begins a comment. -/
def dropComment (line : List Char) : List Char := line.takeWhile (· ≠ ';')

/-- The words of a line, divided by blanks. -/
def wordsOf (line : List Char) : List (List Char) :=
  let pieces := line.foldr (fun c acc =>
    if c = ' ' ∨ c = '\t' then [] :: acc
    else match acc with
      | [] => [[c]]
      | piece :: more => (c :: piece) :: more) [[]]
  pieces.filter (· ≠ [])

/-- The value of a digit, in bases up to 16, either case. -/
def digitValue (c : Char) : Option Nat :=
  let n := c.toNat
  if 48 ≤ n ∧ n ≤ 57 then some (n - 48)
  else if 65 ≤ n ∧ n ≤ 70 then some (n - 55)
  else if 97 ≤ n ∧ n ≤ 102 then some (n - 87)
  else none

/-- The number that digits spell in a base, after `acc`. -/
def digitsFrom (base : Nat) : Nat → List Char → Option Nat
  | acc, [] => some acc
  | acc, c :: cs =>
    match digitValue c with
    | none => none
    | some d => if d < base then digitsFrom base (acc * base + d) cs else none

/-- A number of at least one digit. -/
def numberOf (base : Nat) (cs : List Char) : Option Nat := if cs = [] then none else digitsFrom base 0 cs

/-- An integer that DATA can hold (R43). -/
def fitting (w : Nat) (v : Int) : Option Int := if dataFits w v then some v else none

/-- An operand: a signed decimal integer with an optional `+`, or a `0x` pattern of `w` bits (R51, log 11). -/
def operandOf (w : Nat) (cs : List Char) : Option Int :=
  match cs with
  | '0' :: 'x' :: ds => (numberOf 16 ds).bind fun n => if n < 2 ^ w then some (signedW (BitVec.ofNat w n)) else none
  | '+' :: ds => (numberOf 10 ds).bind fun n => fitting w n
  | '-' :: ds => (numberOf 10 ds).bind fun n => fitting w (-n)
  | ds => (numberOf 10 ds).bind fun n => fitting w n

/-- The commands by mnemonic, those with an operand (R44). -/
def operandCommands : List (List Char × (Int → Instr)) :=
  [("SETAMP".toList, .setamp), ("ENC.AMI".toList, .encAmi), ("ENC.NRZ".toList, .encNrz), ("MOD.ASK".toList, .modAsk),
   ("MOD.BPSK".toList, .modBpsk), ("DEM.ASK".toList, .demAsk), ("DEM.BPSK".toList, .demBpsk), ("DEC.AMI".toList, .decAmi),
   ("DEC.NRZ".toList, .decNrz)]

/-- The commands of class none, which assemble with `DATA = 0` (R51). -/
def plainCommands : List (List Char × Instr) :=
  [("NOP".toList, .nop 0), ("NEWSEQ".toList, .newseq 0), ("RDSTAT".toList, .rdstat 0)]

/-- The command of a line's words. -/
def commandOf (w : Nat) (mnemonic : List Char) (operands : List (List Char)) : Except AsmError Instr :=
  match plainCommands.lookup mnemonic, operandCommands.lookup mnemonic, operands with
  | some i, _, [] => .ok i
  | some _, _, _ :: _ => .error .operandCount
  | none, some op, [cs] =>
    match operandOf w cs with
    | some v => .ok (op v)
    | none => .error .badOperand
  | none, some _, _ => .error .operandCount
  | none, none, _ => .error .unknownMnemonic

/-- One line: a command word, or none for a line that holds only blanks and a comment (R51). -/
def assembleLine (w : Nat) (line : List Char) : Except AsmError (Option (CmdWord w)) :=
  match wordsOf (dropComment line) with
  | [] => .ok none
  | mnemonic :: operands =>
    match commandOf w mnemonic operands with
    | .ok i => .ok (some (encode w i))
    | .error e => .error e

end Sys2Proof.Machine
end

