-- ==== Sys2Proof/Machine/Sequences.lean ====
section
/-! DEFINITION. Whole sequences: the document's seven functions as the spec gives them (R74, R75, R84, R96, R104),
written without the machine, and what the host sees when it presents a sequence one element per command (R2, R3). -/

namespace Sys2Proof.Machine

variable {w : Nat}

/-! ### The document's functions -/

/-- `encode_ami(bits)` by counting: a 1-bit gives +1 when the 1-bits up to and including it are odd in number, else -1 (R74).
On an element that is no bit the spec gives no symbol; what this total function gives there is the model's (DESIGN CHOICE, log 16). -/
def encodeAmi (bits : List Int) : List Int :=
  bits.mapIdx fun i b => if b = 0 then 0 else if (bits.take (i + 1)).count 1 % 2 = 1 then 1 else -1

/-- `encode_nrz(bits)`: -1 for a 0, +1 for a 1 (R75).
On an element that is no bit the spec gives no symbol; what this total function gives there is the model's (DESIGN CHOICE, log 16). -/
def encodeNrz (bits : List Int) : List Int := bits.map fun b => if b = 0 then -1 else 1

/-- `modulate(symbols, amplitude)[i] = symbols[i] * amplitude`, for an amplitude in `1 .. SMAX` (R84; elsewhere log 15) and
symbols in {-1, 0, +1} (on other elements DESIGN CHOICE, log 16). -/
def modulate (symbols : List Int) (amplitude : Int) : List Int := symbols.map (· * amplitude)

/-- The ASK decision on the exact quotient `v = r / A`, thresholds 1/2 and -1/2, both strict (R90).
R90 defines it for `A > 0` only; what this total function gives elsewhere is no value of the spec (DESIGN CHOICE, log 15). -/
def sliceAskQuotient (r a : Int) : Int :=
  let v : ℚ := (r : ℚ) / (a : ℚ)
  if v > 1 / 2 then 1 else if v < -1 / 2 then -1 else 0

/-- The BPSK decision on the exact quotient `v = r / A`, threshold 0, which itself gives +1 (R92).
R92 defines it for `A > 0` only; what this total function gives elsewhere is no value of the spec (DESIGN CHOICE, log 15). -/
def sliceBpskQuotient (r a : Int) : Int :=
  let v : ℚ := (r : ℚ) / (a : ℚ)
  if v ≥ 0 then 1 else -1

/-- `demodulate_ask(received_signal, amplitude)`, for an amplitude in `1 .. SMAX` (R96; elsewhere log 15). -/
def demodulateAsk (received : List Int) (amplitude : Int) : List Int := received.map (sliceAskQuotient · amplitude)

/-- `demodulate_bpsk(received_signal, amplitude)`, for an amplitude in `1 .. SMAX` (R96; elsewhere log 15). -/
def demodulateBpsk (received : List Int) (amplitude : Int) : List Int := received.map (sliceBpskQuotient · amplitude)

/-- `decode_ami(symbols)[i] = |symbols[i]|`, for symbols in {-1, 0, +1} (R100, R104).
On any other element the spec gives no bit; what this total function gives there is the model's (DESIGN CHOICE, log 16). -/
def decodeAmi (symbols : List Int) : List Int := symbols.map fun sym => |sym|

/-- `decode_nrz(symbols)[i]` is 1 when the symbol is not negative, else 0 (R102, R104). -/
def decodeNrz (symbols : List Int) : List Int := symbols.map fun sym => if sym ≥ 0 then 1 else 0

/-! ### What the host presents and what it sees -/

/-- Pins that present the command `i` (R40). -/
def PortIn.command (w : Nat) (i : Instr) : PortIn w := .word (encode w i)

/-- One command per element, in index order (R2, R3). -/
def commandsOf (w : Nat) (op : Int → Instr) (xs : List Int) : List (PortIn w) := xs.map fun x => .command w (op x)

/-- The responses of commands that all executed, with the results `xs` (R49, R50). -/
def answers (w : Nat) (xs : List Int) : List (Option (Response w)) := xs.map fun x => some ⟨.noFault, tcW w x⟩

/-- What the response port of a machine of width `w` shows in the next `k` cycles. -/
def transcript : Nat → State w → List (Option (Response w))
  | 0, _ => []
  | k + 1, s =>
    match stepAt s with
    | .next t => t.rsp :: transcript k t
    | .fault _ => []
    | .refused _ => []

end Sys2Proof.Machine
end

