-- ==== Sys2Proof/Machine/Environment.lean ====
section
/-! DEFINITION. The host around the block (spec R110 to R119, which bind the host and not the block): the text codec, the bridge
of the channel to the block, the error analyser, and the orchestrator, which drives the machine's own step. No step uses this file. -/

namespace Sys2Proof.Machine

variable {w : Nat}

/-- How a run of the host fails. -/
inductive HostError where
  /-- `InvalidModulationError`: the selector is neither ASK nor BPSK (R115, R118). -/
  | invalidModulation
  /-- `EncodingError`: a code point above 255 (R110). -/
  | encoding
  /-- A response with `ERR != 0` (R118). -/
  | block (c : Cause)
  /-- The operand fits no DATA field, so no command word carries it (R43). -/
  | notPresentable
  /-- No response came back; R49 excludes it. -/
  | noResponse
  deriving DecidableEq, Repr

/-! ### The text codec (R110, R111) -/

/-- Eight bits, most significant first (R110). `textEncode` applies it to code points up to 255 only; on others DESIGN CHOICE, log 16. -/
def codePointBits (p : Nat) : List Int :=
  [p / 128 % 2, p / 64 % 2, p / 32 % 2, p / 16 % 2, p / 8 % 2, p / 4 % 2, p / 2 % 2, p % 2].map fun b : Nat => (b : Int)

/-- `TextCodec.encode` (R110). -/
def textEncode : List Char → Except HostError (List Int)
  | [] => .ok []
  | c :: cs =>
    if c.toNat ≤ 255 then
      match textEncode cs with
      | .ok bits => .ok (codePointBits c.toNat ++ bits)
      | .error e => .error e
    else .error .encoding

/-- `TextCodec.decode`: groups of eight; leftover bits are dropped (R111). On elements that are no bits DESIGN CHOICE, log 16. -/
def textDecode : List Int → List Char
  | b7 :: b6 :: b5 :: b4 :: b3 :: b2 :: b1 :: b0 :: rest =>
    Char.ofNat (128 * b7 + 64 * b6 + 32 * b5 + 16 * b4 + 8 * b3 + 4 * b2 + 2 * b1 + b0).toNat :: textDecode rest
  | _ => []

/-! ### The error analyser (R114) -/

/-- `ber(original_bits, recovered_bits)`: errors over the shorter length, divided by the original length; 0 for no bits. -/
def ber (original recovered : List Int) : ℚ :=
  if original = [] then 0
  else ((List.zipWith (fun a b => if a = b then 0 else 1) original recovered).sum : Nat) / (original.length : ℚ)

/-! ### The channel (R112, R113, R119) -/

/-- Step 1 of `apply_noise`, the mean signal power: 0 for an all-zero signal (R112), and for an empty one (log 12). -/
def meanPower (signal : List Int) : ℚ :=
  if signal = [] then 0 else (signal.map fun x => (x : ℚ) ^ 2).sum / (signal.length : ℚ)

/-- Step 3 of `apply_noise`: `n` is the noise power of the signal at the linear SNR `snrLinear`, 0 where that is not positive. -/
def IsNoisePower (signal : List Int) (snrLinear n : ℝ) : Prop :=
  n = if snrLinear > 0 then (meanPower signal : ℝ) / snrLinear else 0

/-- Steps 2 to 4 of `apply_noise`: `sigma` is the standard deviation of the noise at `snrDb` decibels (R112). -/
def IsNoiseDeviation (signal : List Int) (snrDb sigma : ℝ) : Prop :=
  ∃ n, IsNoisePower signal ((10 : ℝ) ^ (snrDb / 10)) n ∧ 0 ≤ sigma ∧ sigma ^ 2 = n

/-- Step 5 of `apply_noise`: the noise on `n` samples, from one draw a sample of mean 0 and deviation 1 (R112). The draws are
free inputs (R113); that they are independent and Gaussian is not said (log 12). -/
def noiseOf (sigma : ℝ) (draws : Nat → ℝ) (n : Nat) : List ℝ := (List.range n).map fun i => sigma * draws i

/-- A sample of a block of width `w`: an integer in `SMIN .. SMAX` (R4). -/
abbrev Sample (w : Nat) : Type := { v : Int // Config.smin w ≤ v ∧ v ≤ Config.smax w }

/-- `rx[i] = quantise(tx[i] + noise[i])`: the noise is a free input (R113), the quantiser a parameter `real -> SMIN..SMAX`, of
which a claim may ask that it is the identity on integers in range (R119). -/
def channel (quantise : ℝ → Sample w) (noise : List ℝ) (tx : List Int) : List Int :=
  List.zipWith (fun (t : Int) (n : ℝ) => (quantise (t + n)).val) tx noise

/-! ### The orchestrator (R118) -/

/-- One cycle of the machine with the pins `p`. -/
def drive (p : PortIn w) (s : State w) : Except HostError (State w) :=
  match stepAt { s with inputs := p :: s.inputs } with
  | .next t => .ok t
  | .fault _ => .error .noResponse
  | .refused _ => .error .noResponse

/-- One command and its result; a response with `ERR != 0` ends the run. -/
def issue (i : Instr) (s : State w) : Except HostError (State w × Int) :=
  if i.wellFormed w then
    match drive (.command w i) s with
    | .error e => .error e
    | .ok t =>
      match t.rsp with
      | none => .error .noResponse
      | some r => if r.err = .noFault then .ok (t, signedW r.data) else .error (.block r.err)
  else .error .notPresentable

/-- Commands in order, and their results. -/
def issueAll : List Instr → State w → Except HostError (State w × List Int)
  | [], s => .ok (s, [])
  | i :: is, s =>
    match issue i s with
    | .error e => .error e
    | .ok (t, v) =>
      match issueAll is t with
      | .error e => .error e
      | .ok (u, vs) => .ok (u, v :: vs)

/-- The ENC command of a route (R42). -/
def encOf : Route → Int → Instr
  | .ask => .encAmi
  | .bpsk => .encNrz

/-- The MOD command of a route (R42). -/
def modOf : Route → Int → Instr
  | .ask => .modAsk
  | .bpsk => .modBpsk

/-- The DEM command of a route (R42). -/
def demOf : Route → Int → Instr
  | .ask => .demAsk
  | .bpsk => .demBpsk

/-- The DEC command of a route (R42). -/
def decOf : Route → Int → Instr
  | .ask => .decAmi
  | .bpsk => .decNrz

/-- The stages ENCODING, MODULATING, CHANNEL, DEMODULATING and DECODING on a bit sequence (R115, R118). -/
def hostStages (chan : List Int → List Int) (route : Route) (bits : List Int) (s : State w) :
    Except HostError (List Int) := do
  let (s, _) ← issue (.newseq 0) s
  let (s, symbols) ← issueAll (bits.map (encOf route)) s
  let (s, tx) ← issueAll (symbols.map (modOf route)) s
  let (s, rsymbols) ← issueAll ((chan tx).map (demOf route)) s
  let (_, rbits) ← issueAll (rsymbols.map (decOf route)) s
  return rbits

/-- The same stages element by element, the second order R118 allows. -/
def hostElements (link : Int → Int) (route : Route) : List Int → State w → Except HostError (List Int)
  | [], _ => .ok []
  | b :: bs, s => do
    let (s, symbol) ← issue (encOf route b) s
    let (s, tx) ← issue (modOf route symbol) s
    let (s, rsymbol) ← issue (demOf route (link tx)) s
    let (s, rbit) ← issue (decOf route rsymbol) s
    let rbits ← hostElements link route bs s
    return rbit :: rbits

/-- `hostStages` with the elements one after another; the channel is a function of each sample. -/
def hostInterleaved (link : Int → Int) (route : Route) (bits : List Int) (s : State w) : Except HostError (List Int) := do
  let (s, _) ← issue (.newseq 0) s
  hostElements link route bits s

/-- `host_run(text, amplitude, snr_db, modulation)` on a machine in any state, the channel given as a function (R118). -/
def hostRun (chan : List Int → List Int) (text : List Char) (amplitude : Int) (sel : BitVec 2) (s : State w) :
    Except HostError (List Char × ℚ) :=
  match routeOfSel sel with
  | none => .error .invalidModulation
  | some route => do
    let s ← drive ⟨true, false, 0⟩ s
    let bits ← textEncode text
    let (s, _) ← issue (.setamp amplitude) s
    let rbits ← hostStages chan route bits s
    return (textDecode rbits, ber bits rbits)

end Sys2Proof.Machine
end

