-- ==== Sys2Proof/Machine/Instances.lean ====
section
/-! DEFINITION. Several blocks: independent copies of the machine, each with its own ports, stepped in any interleaving (spec R38). -/

namespace Sys2Proof.Machine

variable {w : Nat}

/-- Instance `k` makes its step; the others stand still. A number that names no instance changes nothing. -/
def stepInstance (k : Nat) (sys : List (State w)) : Host.Outcome (List (State w)) Fault Refusal :=
  match sys[k]? with
  | none => .next sys
  | some s =>
    match stepAt s with
    | .next t => .next (sys.set k t)
    | .fault f => .fault f
    | .refused r => .refused r

/-- The steps of a schedule, a list of instance numbers, in order. -/
def runSchedule : List Nat → List (State w) → Host.Outcome (List (State w)) Fault Refusal
  | [], sys => .next sys
  | k :: ks, sys =>
    match stepInstance k sys with
    | .next sys' => runSchedule ks sys'
    | .fault f => .fault f
    | .refused r => .refused r

end Sys2Proof.Machine
end

