-- ==== Sys2Proof/Safety.lean ====
section
/-! DEFINITION. What the claims are stated in: the invariant of reachable states (spec R12, R23), the table of faults (R131),
what a successful run is (R136), and the count of 1-bits that AMI_PAR stands for (R11). -/

namespace Sys2Proof.Machine

variable {w : Nat}

/-- The states of R23: no amplitude and `AMP = 0`, or a validated amplitude in `1 .. SMAX`; AMI_PAR and FAULT free. -/
abbrev Block.Inv (b : Block w) : Prop :=
  (b.ampV = false ∧ b.amp = 0#w) ∨ (b.ampV = true ∧ 1 ≤ b.amplitude ∧ b.amplitude ≤ Config.smax w)

/-- The invariant of the machine: that of its block. -/
abbrev State.Inv (s : State w) : Prop := s.block.Inv

/-- "Encoding: `OPC = opc`" of a command's rule, with its operand `signed_W(DATA)` (R40, R44): at every width, the word with that
OPC is the command, whatever its DATA is. -/
def EncodedAs (opc : BitVec 5) (command : Int → Instr) : Prop :=
  ∀ (w : Nat) (data : BitVec w), decode (opc ++ data : CmdWord w) = command (signedW data)

/-- The table of R131: the cause a command raises in a block without a fault, NONE if it executes. -/
def causeRaised (b : Block w) : Instr → Cause
  | .nop _ => .noFault
  | .setamp a => if a ≤ 0 then .invalidParameter else .noFault
  | .newseq _ => .noFault
  | .rdstat _ => .noFault
  | .encAmi bit => if bit = 0 ∨ bit = 1 then .noFault else .invalidParameter
  | .encNrz bit => if bit = 0 ∨ bit = 1 then .noFault else .invalidParameter
  | .modAsk sym => if b.ampV = false ∨ ¬(sym = -1 ∨ sym = 0 ∨ sym = 1) then .invalidParameter else .noFault
  | .modBpsk sym => if b.ampV = false ∨ ¬(sym = -1 ∨ sym = 0 ∨ sym = 1) then .invalidParameter else .noFault
  | .demAsk _ => if b.ampV = false then .invalidParameter else .noFault
  | .demBpsk _ => if b.ampV = false then .invalidParameter else .noFault
  | .decAmi sym => if sym = -1 ∨ sym = 0 ∨ sym = 1 then .noFault else .invalidParameter
  | .decNrz sym => if sym = -1 ∨ sym = 0 ∨ sym = 1 then .noFault else .invalidParameter
  | .rsvSel _ _ _ => .invalidModulation
  | .rsvCtl4to7 _ _ => .illegalCommand
  | .rsvCtl8to15 _ _ => .illegalCommand

/-- The commands that need an amplitude (R154). -/
def needsAmplitude : Instr → Bool
  | .nop _ => false
  | .setamp _ => false
  | .newseq _ => false
  | .rdstat _ => false
  | .encAmi _ => false
  | .encNrz _ => false
  | .modAsk _ => true
  | .modBpsk _ => true
  | .demAsk _ => true
  | .demBpsk _ => true
  | .decAmi _ => false
  | .decNrz _ => false
  | .rsvSel _ _ _ => false
  | .rsvCtl4to7 _ _ => false
  | .rsvCtl8to15 _ _ => false

/-- The commands that write nothing when they execute (R17, R33). -/
def writesNothing : Instr → Bool
  | .nop _ => true
  | .setamp _ => false
  | .newseq _ => false
  | .rdstat _ => true
  | .encAmi _ => false
  | .encNrz _ => true
  | .modAsk _ => true
  | .modBpsk _ => true
  | .demAsk _ => true
  | .demBpsk _ => true
  | .decAmi _ => true
  | .decNrz _ => true
  | .rsvSel _ _ _ => false
  | .rsvCtl4to7 _ _ => false
  | .rsvCtl8to15 _ _ => false

/-- A run succeeded as far as its responses tell: every response had `ERR = 0` (R136). -/
def allExecuted (rs : List (Option (Response w))) : Bool :=
  rs.all fun r => match r with
    | none => true
    | some x => decide (x.err = .noFault)

/-- The count of R11 after a command that executed: NEWSEQ starts it again, an ENC.AMI 1 adds one. -/
def onesCounted (n : Nat) : Instr → Nat
  | .newseq _ => 0
  | .encAmi bit => if bit = 1 then n + 1 else n
  | .nop _ | .setamp _ | .rdstat _ | .encNrz _ | .modAsk _ | .modBpsk _ | .demAsk _ | .demBpsk _
  | .decAmi _ | .decNrz _ | .rsvSel _ _ _ | .rsvCtl4to7 _ _ | .rsvCtl8to15 _ _ => n

/-- The count of R11 after a cycle with the response `rsp`: a reset starts it again, a command counts if it executed. -/
def onesAfter (n : Nat) (c : Cycle w) (rsp : Option (Response w)) : Nat :=
  match c, rsp with
  | .reset, _ => 0
  | .idle, _ => n
  | .command _, none => n
  | .command cmd, some r => if r.err = .noFault then onesCounted n (decode cmd) else n

/-- The count of R11 after `k` steps from `s`, where it stood at `n`. -/
def onesAfterRun : Nat → Nat → State w → Nat
  | 0, n, _ => n
  | k + 1, n, s =>
    match stepAt s with
    | .next t => onesAfterRun k (onesAfter n s.cycle t.rsp) t
    | .fault _ => n
    | .refused _ => n

end Sys2Proof.Machine
end

