-- ==== Sys2Proof/Certificates/Slice0/Obligations.lean ====
section
/-! DEFINITION. The statements for the provers, from the numbered rules of the spec.
"Without a fault" is `fault = .noFault`, the non-faulted state of R60. Where a statement's premise is `Inv`, it is the
invariant of R23, which `ResetMeetsInv` and `StepKeepsInv` state of every reachable state. A statement about `exec`, `step` or `core`
is about the machine of the spec's width; one about every valid `w` is about the machine of that width (R4), and
`TheMachineIsTheOneOfItsWidth` says that the first is one of the second. -/

open Sys2Proof Sys2Proof.Machine

/-! ### Encoding (R40 to R48) -/

/-- R40 to R48: decoding the word of a well-formed command gives the command back, every operand included, at every width. -/
def Obligations.DecodeInvertsEncode : Prop :=
  ∀ (w : Nat) (i : Instr), Config.ValidWidth w → i.wellFormed w = true → decode (encode w i) = i

/-- The decoder is total (R48), and every word is the word of the well-formed command it decodes to. That no bit is lost is the
model's choice where R48's decoder drops bits: Instr keeps DATA that is ignored and the free OPC bits of the reserved rows (log 7). -/
def Obligations.EncodeInvertsDecode : Prop :=
  ∀ (w : Nat) (cmd : CmdWord w), Config.ValidWidth w → (decode cmd).wellFormed w = true ∧ encode w (decode cmd) = cmd

/-- R44, R45, R46: what a word decodes to is a command of the one table row its OPC selects, with the operand `signed_W(DATA)`. -/
def Obligations.DecoderFollowsTheOpcodeTable : Prop :=
  ∀ (w : Nat) (cmd : CmdWord w),
    (decode cmd).row ∈ opcTable ∧ (decode cmd).row.selects (opcField cmd) = true ∧
    (∀ row ∈ opcTable, row.selects (opcField cmd) = true → row = (decode cmd).row) ∧
    (decode cmd).operand = signedW (dataField cmd)

/-- R47: of the 32 OPC values 12 are commands, 8 have an unrecognised selector and 12 are reserved control codes;
each is in exactly one row, and DATA never makes an encoding reserved. -/
def Obligations.EveryOpcodeHasOneMeaning : Prop :=
  let codes := (List.range 32).map (BitVec.ofNat 5)
  let reserved := ["RSV.SEL", "RSV.CTL.4_7", "RSV.CTL.8_15"]
  let inRows := fun (names : List String) (opc : BitVec 5) =>
    opcTable.any fun row => names.contains row.mnemonic && row.selects opc
  (∀ opc : BitVec 5, (opcTable.filter (·.selects opc)).length = 1) ∧
  (codes.filter fun opc => !inRows reserved opc).length = 12 ∧
  (codes.filter (inRows ["RSV.SEL"])).length = 8 ∧
  (codes.filter (inRows ["RSV.CTL.4_7", "RSV.CTL.8_15"])).length = 12 ∧
  (∀ (w : Nat) (cmd cmd' : CmdWord w), opcField cmd = opcField cmd' → (decode cmd).row = (decode cmd').row)

/-- R44 and 95_test_vectors.md: words of every family, written out from the spec. The last clause, that a number wider than the port
is refused by name, is the model's own choice (log 4). -/
def Obligations.WrittenOutWordsDecode : Prop :=
  decodeNat 16 0x0103E8 = .ok (.setamp 1000) ∧ decodeNat 16 0x030000 = .ok (.rdstat 0) ∧
  decodeNat 16 0x100001 = .ok (.encAmi 1) ∧ decodeNat 16 0x14FFFF = .ok (.modAsk (-1)) ∧
  decodeNat 16 0x18FE0C = .ok (.demAsk (-500)) ∧ decodeNat 16 0x1DFFFF = .ok (.decNrz (-1)) ∧
  decodeNat 16 0x1AFFFE = .ok (.rsvSel 2 2 (-2)) ∧ decodeNat 16 0x0F1234 = .ok (.rsvCtl8to15 15 0x1234) ∧
  decodeNat 16 0x200000 = .error .widerThanPort

/-- R51: the examples of the assembler syntax assemble to the words of R44. -/
def Obligations.AssemblerExamplesAssemble : Prop :=
  assembleLine 16 "SETAMP 1000".toList = .ok (some 0x0103E8#21) ∧
  assembleLine 16 "NEWSEQ ; a new sequence".toList = .ok (some 0x020000#21) ∧
  assembleLine 16 "ENC.AMI 1".toList = .ok (some 0x100001#21) ∧
  assembleLine 16 "MOD.ASK -1".toList = .ok (some 0x14FFFF#21) ∧
  assembleLine 16 "DEM.ASK 0xFC18".toList = .ok (some 0x18FC18#21) ∧
  assembleLine 16 "RDSTAT".toList = .ok (some 0x030000#21)

/-! ### Reset, idle cycles, and what a step is (R22, R60, R140, R150 to R153) -/

/-- R22: the value of every field after reset, and STATUS after reset, at the spec's width and at every other. -/
def Obligations.ResetGivesTheSpecValues : Prop :=
  (∀ w : Nat, Config.ValidWidth w →
    (State.resetAt w).block.amiPar = false ∧ (State.resetAt w).block.amp = 0#w ∧ (State.resetAt w).block.ampV = false ∧
    (State.resetAt w).block.fault = .noFault ∧ (State.resetAt w).block.status = 0#w) ∧
  State.reset.block.amiPar = false ∧ State.reset.block.amp = 0#16 ∧ State.reset.block.ampV = false ∧
  State.reset.block.fault = .noFault ∧ State.reset.block.status = 0#16

/-- R151: a reset cycle sets every field to its reset value whatever the state was and whatever command is presented,
with no response (R150); and a step that clears FAULT is a reset cycle. -/
def Obligations.ResetAndNothingElseClearsFault : Prop :=
  (∀ (s : State) (p : PortIn Config.W) (rest : List (PortIn Config.W)), s.inputs = p :: rest → p.rst = true →
    step s = .next { block := { amiPar := false, amp := 0#16, ampV := false, fault := .noFault }, inputs := rest, rsp := none }) ∧
  (∀ s t : State, step s = .next t → s.block.fault ≠ .noFault → t.block.fault = .noFault →
    ∃ p rest, s.inputs = p :: rest ∧ p.rst = true)

/-- R153: any number of cycles in which nothing is presented change nothing but the response port, which shows nothing;
the cycles past the end of the inputs (the model's own choice, log 2) are such cycles. -/
def Obligations.IdleCyclesChangeNothing : Prop :=
  (∀ (idle rest : List (PortIn Config.W)) (s : State), idle ≠ [] → s.inputs = idle ++ rest →
    (∀ p ∈ idle, p.rst = false ∧ p.cmdValid = false) →
    Host.Core.run core idle.length s = .next { block := s.block, inputs := rest, rsp := none }) ∧
  (∀ s : State, s.inputs = [] → step s = .next { block := s.block, inputs := [], rsp := none })

/-- R60, R40, R150: in a cycle with `cmd_valid = 1` and `rst = 0`, the step is the execution of the command the word decodes to,
with the pins moved on by one cycle. The second clause, that a word placed by `withFetchWord` is executed by the very next step, is
about the model's own way to present a word (log 4). -/
def Obligations.StepRunsTheDecodedCommand : Prop :=
  (∀ (s : State) (p : PortIn Config.W) (rest : List (PortIn Config.W)), s.inputs = p :: rest → p.rst = false →
    p.cmdValid = true → step s = exec (decode p.cmd) { s with inputs := rest }) ∧
  (∀ (s : State) (n : Nat), n < 2 ^ 21 → step (s.withFetchWord 24 n) = exec (decode (w := 16) (BitVec.ofNat 21 n)) s)

/-- R140, R150: every step has an outcome, a next state, and it makes a response exactly when `cmd_valid and not rst`. -/
def Obligations.EveryStepAnswers : Prop :=
  ∀ s : State, ∃ t : State, step s = .next t ∧ t.inputs = s.inputs.tail ∧
    (t.rsp.isSome = true ↔ ∃ p rest, s.inputs = p :: rest ∧ p.cmdValid = true ∧ p.rst = false)

/-! ### The control commands (R61 to R64, R14) -/

/-- R61: NOP answers `(NONE, 0)` and writes nothing, whatever DATA is. -/
def Obligations.NopAnswersZero : Prop :=
  EncodedAs 0x00#5 .nop ∧ ∀ (data : Int) (s : State), s.block.fault = .noFault →
    exec (.nop data) s = .next { s with rsp := some ⟨.noFault, 0#16⟩ }

/-- R62: SETAMP loads a positive amplitude and marks it valid, and refuses any other with INVALID_PARAMETER, the old one kept. -/
def Obligations.SetampLoadsPositiveAmplitudes : Prop :=
  EncodedAs 0x01#5 .setamp ∧ ∀ (a : Int) (s : State), s.block.fault = .noFault → (Instr.setamp a).wellFormed Config.W = true →
    (0 < a → exec (.setamp a) s =
      .next { s with block := { s.block with amp := tcW 16 a, ampV := true }, rsp := some ⟨.noFault, 0#16⟩ }) ∧
    (0 < a → signedW (tcW 16 a) = a) ∧
    (a ≤ 0 → exec (.setamp a) s =
      .next { s with block := { s.block with fault := .invalidParameter }, rsp := some ⟨.invalidParameter, 0#16⟩ })

/-- R63: NEWSEQ clears AMI_PAR and nothing else. -/
def Obligations.NewseqClearsParity : Prop :=
  EncodedAs 0x02#5 .newseq ∧ ∀ (data : Int) (s : State), s.block.fault = .noFault →
    exec (.newseq data) s = .next { s with block := { s.block with amiPar := false }, rsp := some ⟨.noFault, 0#16⟩ }

/-- R64: RDSTAT answers `(S.FAULT, status(S))` in every state, faulted or not, and writes nothing. -/
def Obligations.RdstatReadsStatus : Prop :=
  EncodedAs 0x03#5 .rdstat ∧ ∀ (data : Int) (s : State), exec (.rdstat data) s = .next { s with rsp := some ⟨s.block.fault, s.block.status⟩ }

/-- R14: RDSTAT returns STATUS; its layout at every width; AMP is not in it, and MOD.ASK +1 gives AMP back. -/
def Obligations.StatusShowsTheFlags : Prop :=
  (∀ (data : Int) (s : State), ∃ t, exec (.rdstat data) s = .next t ∧ t.block = s.block ∧
    t.rsp = some ⟨s.block.fault, s.block.status⟩) ∧
  (∀ (w : Nat) (b : Block w), Config.ValidWidth w →
    b.status.getLsbD 0 = b.amiPar ∧ b.status.getLsbD 1 = b.ampV ∧ b.status.extractLsb' 2 2 = b.fault.code ∧
    (∀ j, 4 ≤ j → b.status.getLsbD j = false)) ∧
  (∀ (w : Nat) (b : Block w) (a : BitVec w), ({ b with amp := a } : Block w).status = b.status) ∧
  (∀ s : State, s.block.fault = .noFault → s.block.ampV = true →
    exec (.modAsk 1) s = .next { s with rsp := some ⟨.noFault, s.block.amp⟩ })

/-! ### The line encoder (R70 to R77) -/

/-- R70: ENC.AMI gives 0 for a 0-bit; for a 1-bit +1 or -1 by AMI_PAR, which it toggles; any other operand faults. -/
def Obligations.EncAmiEncodesABit : Prop :=
  EncodedAs 0x10#5 .encAmi ∧ ∀ s : State, s.block.fault = .noFault →
    exec (.encAmi 0) s = .next { s with rsp := some ⟨.noFault, tcW 16 0⟩ } ∧
    (s.block.amiPar = false → exec (.encAmi 1) s =
      .next { s with block := { s.block with amiPar := true }, rsp := some ⟨.noFault, tcW 16 1⟩ }) ∧
    (s.block.amiPar = true → exec (.encAmi 1) s =
      .next { s with block := { s.block with amiPar := false }, rsp := some ⟨.noFault, tcW 16 (-1)⟩ }) ∧
    (∀ b : Int, b ≠ 0 → b ≠ 1 → exec (.encAmi b) s =
      .next { s with block := { s.block with fault := .invalidParameter }, rsp := some ⟨.invalidParameter, 0#16⟩ })

/-- R72: ENC.NRZ gives -1 for a 0-bit and +1 for a 1-bit, writes nothing, and faults on any other operand. -/
def Obligations.EncNrzEncodesABit : Prop :=
  EncodedAs 0x11#5 .encNrz ∧ ∀ s : State, s.block.fault = .noFault →
    exec (.encNrz 0) s = .next { s with rsp := some ⟨.noFault, tcW 16 (-1)⟩ } ∧
    exec (.encNrz 1) s = .next { s with rsp := some ⟨.noFault, tcW 16 1⟩ } ∧
    (∀ b : Int, b ≠ 0 → b ≠ 1 → exec (.encNrz b) s =
      .next { s with block := { s.block with fault := .invalidParameter }, rsp := some ⟨.invalidParameter, 0#16⟩ })

/-- R74: NEWSEQ and then ENC.AMI of each bit, from any state without a fault, give the symbols of `encode_ami(bits)`;
NEWSEQ may be left out where AMI_PAR is 0, as it is after reset. -/
def Obligations.EncAmiCommandsComputeEncodeAmi : Prop :=
  ∀ (w : Nat) (bits : List Int) (s : State w) (data : Int) (rest : List (PortIn w)), Config.ValidWidth w → s.block.fault = .noFault →
    (∀ b ∈ bits, b = 0 ∨ b = 1) →
    (s.inputs = .command w (.newseq data) :: commandsOf w .encAmi bits ++ rest →
      transcript (bits.length + 1) s = answers w (0 :: encodeAmi bits)) ∧
    (s.block.amiPar = false → s.inputs = commandsOf w .encAmi bits ++ rest →
      transcript bits.length s = answers w (encodeAmi bits))

/-- R155: without NEWSEQ, after an odd number of 1-bits, every sign of the sequence is inverted; the decoded bits are unaffected. -/
def Obligations.MissingNewseqInvertsEverySign : Prop :=
  ∀ (w : Nat) (bits : List Int) (s : State w) (rest : List (PortIn w)), Config.ValidWidth w → s.block.fault = .noFault →
    s.block.amiPar = true → (∀ b ∈ bits, b = 0 ∨ b = 1) → s.inputs = commandsOf w .encAmi bits ++ rest →
    transcript bits.length s = answers w ((encodeAmi bits).map (- ·)) ∧
    decodeAmi ((encodeAmi bits).map (- ·)) = bits

/-- R75: ENC.NRZ of each bit, from any state without a fault, gives the symbols of `encode_nrz(bits)`. -/
def Obligations.EncNrzCommandsComputeEncodeNrz : Prop :=
  ∀ (w : Nat) (bits : List Int) (s : State w) (rest : List (PortIn w)), Config.ValidWidth w → s.block.fault = .noFault →
    (∀ b ∈ bits, b = 0 ∨ b = 1) → s.inputs = commandsOf w .encNrz bits ++ rest →
    transcript bits.length s = answers w (encodeNrz bits)

/-- R76: the non-zero symbols of `encode_ami(bits)` are +1, -1, +1, … , as many as there are 1-bits; a 0-bit has the symbol 0;
the running sum is always 0 or +1. -/
def Obligations.AmiMarksAlternate : Prop :=
  ∀ bits : List Int, (∀ b ∈ bits, b = 0 ∨ b = 1) →
    (encodeAmi bits).filter (· ≠ 0) = (List.range (bits.count 1)).map (fun k => if k % 2 = 0 then (1 : Int) else -1) ∧
    (∀ k : Nat, bits[k]? = some 0 → (encodeAmi bits)[k]? = some 0) ∧
    (∀ k : Nat, ((encodeAmi bits).take k).sum = 0 ∨ ((encodeAmi bits).take k).sum = 1)

/-- R77: the alphabets and the lengths of the two encoders, and the document's example. -/
def Obligations.EncodersKeepLengthAndAlphabet : Prop :=
  (∀ bits : List Int, (∀ b ∈ bits, b = 0 ∨ b = 1) →
    (encodeAmi bits).length = bits.length ∧ (encodeNrz bits).length = bits.length ∧
    (∀ x ∈ encodeAmi bits, x = -1 ∨ x = 0 ∨ x = 1) ∧ (∀ x ∈ encodeNrz bits, x = -1 ∨ x = 1)) ∧
  encodeAmi [1, 0, 1, 1, 0] = [1, 0, -1, 1, 0]

/-- R11: AMI_PAR is the parity of the number of ENC.AMI 1 executed since the last reset or NEWSEQ, along every run of the
machine from every state, with whatever commands, resets and faults lie in it; and it says which sign the next 1-bit gets.
The first clause is about the machine of the spec's width, the second about the machine of every width (R4). -/
def Obligations.AmiParCountsExecutedOnes : Prop :=
  (∀ (k n : Nat) (s t : State), (s.block.amiPar = true ↔ n % 2 = 1) → Host.Core.run core k s = .next t →
    (t.block.amiPar = true ↔ onesAfterRun k n s % 2 = 1)) ∧
  (∀ (w : Nat) (valid : Config.ValidWidth w) (k n : Nat) (s t : State w), (s.block.amiPar = true ↔ n % 2 = 1) →
    Host.Core.run (coreAt w valid) k s = .next t → (t.block.amiPar = true ↔ onesAfterRun k n s % 2 = 1)) ∧
  (∀ s : State, s.block.fault = .noFault → ∃ t, exec (.encAmi 1) s = .next t ∧
    t.rsp = some ⟨.noFault, tcW 16 (if s.block.amiPar = false then 1 else -1)⟩)

/-! ### The modulator (R80 to R84) -/

/-- R81: MOD.ASK multiplies a symbol by the amplitude; without an amplitude, or on another operand, it faults. -/
def Obligations.ModAskScalesASymbol : Prop :=
  EncodedAs 0x14#5 .modAsk ∧ ∀ (sym : Int) (s : State), s.block.fault = .noFault →
    (s.block.ampV = true → sym = -1 ∨ sym = 0 ∨ sym = 1 → exec (.modAsk sym) s =
      .next { s with rsp := some ⟨.noFault, tcW 16 (sym * signedW s.block.amp)⟩ }) ∧
    (s.block.ampV = false ∨ ¬(sym = -1 ∨ sym = 0 ∨ sym = 1) → exec (.modAsk sym) s =
      .next { s with block := { s.block with fault := .invalidParameter }, rsp := some ⟨.invalidParameter, 0#16⟩ })

/-- R82: MOD.BPSK does the same, and is in every respect MOD.ASK with the same operand, in a faulted state too. -/
def Obligations.ModBpskIsModAsk : Prop :=
  EncodedAs 0x15#5 .modBpsk ∧ ∀ (sym : Int) (s : State),
    exec (.modBpsk sym) s = exec (.modAsk sym) s ∧
    (s.block.fault = .noFault → s.block.ampV = true → sym = -1 ∨ sym = 0 ∨ sym = 1 → exec (.modBpsk sym) s =
      .next { s with rsp := some ⟨.noFault, tcW 16 (sym * signedW s.block.amp)⟩ })

/-- R83: at every width, in every reachable state with an amplitude, the sample is the exact product, between -SMAX and SMAX. -/
def Obligations.ModulatorNeverOverflows : Prop :=
  ∀ (w : Nat) (b : Block w) (sym : Int), Config.ValidWidth w → b.Inv → b.ampV = true → b.fault = .noFault →
    sym = -1 ∨ sym = 0 ∨ sym = 1 →
    -Config.smax w ≤ sym * b.amplitude ∧ sym * b.amplitude ≤ Config.smax w ∧
    (b.modAsk sym).2.err = .noFault ∧ signedW (b.modAsk sym).2.data = sym * b.amplitude ∧
    (b.modBpsk sym).2.err = .noFault ∧ signedW (b.modBpsk sym).2.data = sym * b.amplitude

/-- R84: SETAMP and then MOD of each symbol, on either route, give the samples of `modulate(symbols, amplitude)`;
SETAMP may be left out where AMP already holds the amplitude. -/
def Obligations.ModCommandsComputeModulate : Prop :=
  ∀ (w : Nat) (route : Route) (symbols : List Int) (amplitude : Int) (s : State w) (rest : List (PortIn w)),
    Config.ValidWidth w → s.block.fault = .noFault → 1 ≤ amplitude → amplitude ≤ Config.smax w →
    (∀ x ∈ symbols, x = -1 ∨ x = 0 ∨ x = 1) →
    (s.inputs = .command w (.setamp amplitude) :: commandsOf w (modOf route) symbols ++ rest →
      transcript (symbols.length + 1) s = answers w (0 :: modulate symbols amplitude)) ∧
    (s.block.ampV = true → signedW s.block.amp = amplitude → s.inputs = commandsOf w (modOf route) symbols ++ rest →
      transcript symbols.length s = answers w (modulate symbols amplitude))

/-! ### The demodulator (R90 to R97) -/

/-- R91, with the decision of R90 on the exact quotient `r / A`: DEM.ASK in a reachable state; it faults without an amplitude. -/
def Obligations.DemAskDecidesByTheQuotient : Prop :=
  EncodedAs 0x18#5 .demAsk ∧ ∀ (r : Int) (s : State), s.block.fault = .noFault →
    (s.Inv → s.block.ampV = true → exec (.demAsk r) s =
      .next { s with rsp := some ⟨.noFault, tcW 16 (sliceAskQuotient r (signedW s.block.amp))⟩ }) ∧
    (s.block.ampV = false → exec (.demAsk r) s =
      .next { s with block := { s.block with fault := .invalidParameter }, rsp := some ⟨.invalidParameter, 0#16⟩ })

/-- R93, with the decision of R92 on the exact quotient `r / A`: DEM.BPSK in a reachable state; it faults without an amplitude. -/
def Obligations.DemBpskDecidesByTheQuotient : Prop :=
  EncodedAs 0x19#5 .demBpsk ∧ ∀ (r : Int) (s : State), s.block.fault = .noFault →
    (s.Inv → s.block.ampV = true → exec (.demBpsk r) s =
      .next { s with rsp := some ⟨.noFault, tcW 16 (sliceBpskQuotient r (signedW s.block.amp))⟩ }) ∧
    (s.block.ampV = false → exec (.demBpsk r) s =
      .next { s with block := { s.block with fault := .invalidParameter }, rsp := some ⟨.invalidParameter, 0#16⟩ })

/-- R94: for a positive amplitude the decisions on the quotient are the block's integer comparisons; the BPSK decision is
the sign bit of the sample. -/
def Obligations.ThresholdsNeedNoDivision : Prop :=
  (∀ r a : Int, 0 < a →
    sliceAskQuotient r a = (if 2 * r > a then 1 else if 2 * r < -a then -1 else 0) ∧
    sliceAsk r a = sliceAskQuotient r a ∧
    sliceBpskQuotient r a = (if r ≥ 0 then 1 else -1) ∧
    sliceBpsk r a = sliceBpskQuotient r a) ∧
  (∀ (w : Nat) (data : BitVec w) (a : Int), Config.ValidWidth w → 0 < a →
    sliceBpskQuotient (signedW data) a = if data.getLsbD (w - 1) = false then 1 else -1)

/-- R95: the decisions depend only on the ratio of sample and amplitude. (For `a <= 0`, where R90 and R92 define no decision, the
values that are equal are the model's own, log 15.) -/
def Obligations.SlicersAreScaleInvariant : Prop :=
  ∀ k r a : Int, 1 ≤ k → sliceAsk (k * r) (k * a) = sliceAsk r a ∧ sliceBpsk (k * r) (k * a) = sliceBpsk r a

/-- R97: the slicers undo the modulator, but the BPSK slicer has no zero level, and gives +1 for the sample of the symbol 0;
and so on the machine, where a sample the modulator of a route made is given back unchanged to the demodulator of that route. -/
def Obligations.SlicersInvertTheModulator : Prop :=
  (∀ a sym : Int, 1 ≤ a → sym = -1 ∨ sym = 0 ∨ sym = 1 →
    sliceAskQuotient (modulateSymbol sym a) a = sym ∧
    (sym ≠ 0 → sliceBpskQuotient (modulateSymbol sym a) a = sym) ∧
    sliceBpskQuotient (modulateSymbol 0 a) a = 1) ∧
  ∀ (s t : State) (r : Response Config.W) (sym : Int), s.block.fault = .noFault → s.Inv → s.block.ampV = true →
    sym = -1 ∨ sym = 0 ∨ sym = 1 → t.rsp = some r →
    (exec (.modAsk sym) s = .next t →
      exec (.demAsk (signedW r.data)) t = .next { t with rsp := some ⟨.noFault, tcW 16 sym⟩ }) ∧
    (exec (.modBpsk sym) s = .next t →
      exec (.demBpsk (signedW r.data)) t = .next { t with rsp := some ⟨.noFault, tcW 16 (if sym = 0 then 1 else sym)⟩ })

/-- R96: SETAMP and then DEM of each sample give the symbols of `demodulate_ask` and `demodulate_bpsk`;
SETAMP may be left out where AMP already holds the amplitude. -/
def Obligations.DemCommandsComputeDemodulate : Prop :=
  ∀ (w : Nat) (received : List Int) (amplitude : Int) (s : State w) (rest : List (PortIn w)),
    Config.ValidWidth w → s.block.fault = .noFault → 1 ≤ amplitude → amplitude ≤ Config.smax w →
    (∀ r ∈ received, Config.smin w ≤ r ∧ r ≤ Config.smax w) →
    (s.inputs = .command w (.setamp amplitude) :: commandsOf w .demAsk received ++ rest →
      transcript (received.length + 1) s = answers w (0 :: demodulateAsk received amplitude)) ∧
    (s.inputs = .command w (.setamp amplitude) :: commandsOf w .demBpsk received ++ rest →
      transcript (received.length + 1) s = answers w (0 :: demodulateBpsk received amplitude)) ∧
    (s.block.ampV = true → signedW s.block.amp = amplitude → s.inputs = commandsOf w .demAsk received ++ rest →
      transcript received.length s = answers w (demodulateAsk received amplitude)) ∧
    (s.block.ampV = true → signedW s.block.amp = amplitude → s.inputs = commandsOf w .demBpsk received ++ rest →
      transcript received.length s = answers w (demodulateBpsk received amplitude))

/-! ### The symbol decoder (R100 to R107) -/

/-- R101: DEC.AMI gives 0 for the symbol 0 and 1 for the symbols +1 and -1, writes nothing, and faults on any other operand. -/
def Obligations.DecAmiDecodesASymbol : Prop :=
  EncodedAs 0x1C#5 .decAmi ∧ ∀ s : State, s.block.fault = .noFault →
    exec (.decAmi 0) s = .next { s with rsp := some ⟨.noFault, tcW 16 0⟩ } ∧
    exec (.decAmi 1) s = .next { s with rsp := some ⟨.noFault, tcW 16 1⟩ } ∧
    exec (.decAmi (-1)) s = .next { s with rsp := some ⟨.noFault, tcW 16 1⟩ } ∧
    (∀ sym : Int, ¬(sym = -1 ∨ sym = 0 ∨ sym = 1) → exec (.decAmi sym) s =
      .next { s with block := { s.block with fault := .invalidParameter }, rsp := some ⟨.invalidParameter, 0#16⟩ })

/-- R103: DEC.NRZ gives 1 for the symbols 0 and +1 and 0 for -1, writes nothing, and faults on any other operand. -/
def Obligations.DecNrzDecodesASymbol : Prop :=
  EncodedAs 0x1D#5 .decNrz ∧ ∀ s : State, s.block.fault = .noFault →
    exec (.decNrz 0) s = .next { s with rsp := some ⟨.noFault, tcW 16 1⟩ } ∧
    exec (.decNrz 1) s = .next { s with rsp := some ⟨.noFault, tcW 16 1⟩ } ∧
    exec (.decNrz (-1)) s = .next { s with rsp := some ⟨.noFault, tcW 16 0⟩ } ∧
    (∀ sym : Int, ¬(sym = -1 ∨ sym = 0 ∨ sym = 1) → exec (.decNrz sym) s =
      .next { s with block := { s.block with fault := .invalidParameter }, rsp := some ⟨.invalidParameter, 0#16⟩ })

/-- R104: DEC of each symbol, from any state without a fault, gives the bits of `decode_ami` and `decode_nrz`. -/
def Obligations.DecCommandsComputeDecode : Prop :=
  ∀ (w : Nat) (symbols : List Int) (s : State w) (rest : List (PortIn w)), Config.ValidWidth w → s.block.fault = .noFault →
    (∀ x ∈ symbols, x = -1 ∨ x = 0 ∨ x = 1) →
    (s.inputs = commandsOf w .decAmi symbols ++ rest → transcript symbols.length s = answers w (decodeAmi symbols)) ∧
    (s.inputs = commandsOf w .decNrz symbols ++ rest → transcript symbols.length s = answers w (decodeNrz symbols))

/-- R105, R106: decoding recovers the encoded bits on both routes; AMI decoding loses the signs, so it has no other inverse. -/
def Obligations.DecodersRecoverTheBits : Prop :=
  (∀ bits : List Int, (∀ b ∈ bits, b = 0 ∨ b = 1) →
    decodeNrz (encodeNrz bits) = bits ∧ decodeAmi (encodeAmi bits) = bits) ∧
  encodeAmi (decodeAmi [-1]) = [1]

/-- R107: the document's functions give back every bit sequence on both routes; and so do the four stages of a route run command
by command on a machine of any width with an amplitude and no fault, the received samples equal to the transmitted ones. -/
def Obligations.BlockRoundTripIsExact : Prop :=
  (∀ (bits : List Int) (a : Int), (∀ b ∈ bits, b = 0 ∨ b = 1) → 1 ≤ a →
    decodeAmi (demodulateAsk (modulate (encodeAmi bits) a) a) = bits ∧
    decodeNrz (demodulateBpsk (modulate (encodeNrz bits) a) a) = bits) ∧
  ∀ (w : Nat) (route : Route) (bits : List Int) (s : State w), Config.ValidWidth w → s.block.fault = .noFault → s.Inv →
    s.block.ampV = true →
    (∀ b ∈ bits, b = 0 ∨ b = 1) → hostStages (fun tx => tx) route bits s = .ok bits

/-! ### Faults (R45, R46, R130 to R138) -/

/-- R45: the eight codes with `K = 1` and `SEL[1] = 1` raise INVALID_MODULATION whatever UNIT and DATA are, and do nothing else. -/
def Obligations.UnrecognisedSelectorFaults : Prop :=
  (∀ (unit sel : BitVec 2) (data : Int) (s : State), s.block.fault = .noFault → exec (.rsvSel unit sel data) s =
    .next { s with block := { s.block with fault := .invalidModulation }, rsp := some ⟨.invalidModulation, 0#16⟩ }) ∧
  (∀ (s : State) (cmd : CmdWord Config.W) (rest : List (PortIn Config.W)), s.block.fault = .noFault →
    s.inputs = .word cmd :: rest → (opcField cmd).getLsbD 4 = true → (opcField cmd).getLsbD 1 = true →
    step s = .next { block := { s.block with fault := .invalidModulation }, inputs := rest, rsp := some ⟨.invalidModulation, 0#16⟩ })

/-- R46: the twelve codes 0x04 to 0x0F raise ILLEGAL_COMMAND whatever DATA is, and do nothing else. -/
def Obligations.ReservedControlFaults : Prop :=
  (∀ (func : BitVec 4) (data : Int) (s : State), s.block.fault = .noFault →
    exec (.rsvCtl4to7 func data) s =
      .next { s with block := { s.block with fault := .illegalCommand }, rsp := some ⟨.illegalCommand, 0#16⟩ } ∧
    exec (.rsvCtl8to15 func data) s =
      .next { s with block := { s.block with fault := .illegalCommand }, rsp := some ⟨.illegalCommand, 0#16⟩ }) ∧
  (∀ (s : State) (cmd : CmdWord Config.W) (rest : List (PortIn Config.W)), s.block.fault = .noFault →
    s.inputs = .word cmd :: rest → 0x04 ≤ (opcField cmd).toNat → (opcField cmd).toNat ≤ 0x0F →
    step s = .next { block := { s.block with fault := .illegalCommand }, inputs := rest, rsp := some ⟨.illegalCommand, 0#16⟩ })

/-- R131, R135: which command raises which cause is the table of R131, in every state without a fault; a command that raises
one enters the fault as R135 says: FAULT and the response take the cause, nothing else changes. In a faulted state none is raised.
The second clause says the same of a block of every width (R4). -/
def Obligations.FaultTableIsComplete : Prop :=
  (∀ (i : Instr) (s : State),
    (s.block.fault = .noFault → causeRaised s.block i = .noFault →
      ∃ t data, exec i s = .next t ∧ t.block.fault = .noFault ∧ t.rsp = some ⟨.noFault, data⟩) ∧
    (s.block.fault = .noFault → causeRaised s.block i ≠ .noFault → exec i s =
      .next { s with block := { s.block with fault := causeRaised s.block i }, rsp := some ⟨causeRaised s.block i, 0#16⟩ }) ∧
    (s.block.fault ≠ .noFault → ∃ t, exec i s = .next t ∧ t.block = s.block)) ∧
  (∀ (w : Nat) (i : Instr) (b : Block w),
    (b.fault = .noFault → causeRaised b i = .noFault → (b.command i).1.fault = .noFault ∧ (b.command i).2.err = .noFault) ∧
    (b.fault = .noFault → causeRaised b i ≠ .noFault →
      b.command i = ({ b with fault := causeRaised b i }, ⟨causeRaised b i, 0#w⟩)) ∧
    (b.fault ≠ .noFault → (b.command i).1 = b))

/-- R43, R131: for a command word that is not reserved, in a state without a fault, the command executes exactly when its operand
is in the domain of its class and the amplitude it may need is there. -/
def Obligations.OperandDomainsDecideFaults : Prop :=
  ∀ (i : Instr) (s t : State), i.wellFormed Config.W = true → s.block.fault = .noFault →
    i.row.mnemonic ∉ ["RSV.SEL", "RSV.CTL.4_7", "RSV.CTL.8_15"] → exec i s = .next t →
    (t.block.fault = .noFault ↔
      (operandClass i).admits Config.W i.operand = true ∧ (needsAmplitude i = true → s.block.ampV = true)) ∧
    (t.block.fault ≠ .noFault → t.block.fault = .invalidParameter)

/-- R136: a faulted block answers every command with `(S.FAULT, 0)` and RDSTAT with `(S.FAULT, status(S))`, and writes nothing;
and without a reset on the way, every response of a run had `ERR = 0` exactly when FAULT is NONE at the end. -/
def Obligations.FaultedBlockRefusesEveryCommand : Prop :=
  (∀ (i : Instr) (s : State), s.block.fault ≠ .noFault →
    ((∀ data, i ≠ .rdstat data) → exec i s = .next { s with rsp := some ⟨s.block.fault, 0#16⟩ }) ∧
    ((∃ data, i = .rdstat data) → exec i s = .next { s with rsp := some ⟨s.block.fault, s.block.status⟩ })) ∧
  (∀ (k : Nat) (s t : State), s.block.fault = .noFault → (∀ p ∈ s.inputs.take k, p.rst = false) →
    Host.Core.run core k s = .next t → (allExecuted (transcript k s) = true ↔ t.block.fault = .noFault))

/-- R138, R13, R136: until a reset, a faulted block keeps its first cause and every other field, however long it runs. -/
def Obligations.FirstFaultStaysUntilReset : Prop :=
  ∀ (k : Nat) (s t : State), s.block.fault ≠ .noFault → (∀ p ∈ s.inputs.take k, p.rst = false) →
    Host.Core.run core k s = .next t → t.block = s.block

/-- R49: `ERR` of a response is the fault now in FAULT, and DATA is zero when `ERR != 0`, except for RDSTAT; and the layout of
the response word at every width: ERR in its two top bits, DATA below. R13, R130: the code of each cause, as ERR and FAULT hold it. -/
def Obligations.ErrIsTheFaultField : Prop :=
  (∀ (i : Instr) (s t : State), exec i s = .next t → ∃ r, t.rsp = some r ∧ r.err = t.block.fault ∧
    (r.err ≠ .noFault → (∀ data, i ≠ .rdstat data) → r.data = 0#16)) ∧
  (∀ (w : Nat) (r : Response w), r.word.extractLsb' w 2 = r.err.code ∧ r.word.extractLsb' 0 w = r.data) ∧
  (Cause.noFault.code = 0#2 ∧ Cause.invalidModulation.code = 1#2 ∧ Cause.invalidParameter.code = 2#2 ∧
    Cause.illegalCommand.code = 3#2)

/-- R50: in a reachable state, a command that executes gives DATA of its result class. -/
def Obligations.ResultsAreOfTheirClass : Prop :=
  ∀ (i : Instr) (s t : State) (data : BitVec 16), s.Inv → exec i s = .next t → t.rsp = some ⟨.noFault, data⟩ →
    (resultClass i).admits s.block.status data = true

/-! ### Frames (R17, R33, R43) -/

/-- R17, R33: NOP, RDSTAT, ENC.NRZ, MOD, DEM and DEC write no state of the block unless they fault. -/
def Obligations.ReadingCommandsKeepTheBlock : Prop :=
  ∀ (i : Instr) (s : State), writesNothing i = true → s.block.fault = .noFault → causeRaised s.block i = .noFault →
    ∃ t, exec i s = .next t ∧ t.block = s.block ∧ t.inputs = s.inputs

/-- R62, R63, R70, R135: what SETAMP, NEWSEQ and ENC.AMI leave unchanged, whether they execute, fault or are refused. -/
def Obligations.WritingCommandsKeepTheRest : Prop :=
  (∀ (a : Int) (s t : State), exec (.setamp a) s = .next t → t.block.amiPar = s.block.amiPar ∧ t.inputs = s.inputs) ∧
  (∀ (data : Int) (s t : State), exec (.newseq data) s = .next t →
    t.block.amp = s.block.amp ∧ t.block.ampV = s.block.ampV ∧ t.block.fault = s.block.fault ∧ t.inputs = s.inputs) ∧
  (∀ (b : Int) (s t : State), exec (.encAmi b) s = .next t →
    t.block.amp = s.block.amp ∧ t.block.ampV = s.block.ampV ∧ t.inputs = s.inputs)

/-- R158: AMI_PAR is written by ENC.AMI, NEWSEQ and reset, and by nothing else. -/
def Obligations.OnlyEncAmiAndNewseqTouchTheParity : Prop :=
  ∀ (i : Instr) (s t : State), exec i s = .next t → t.block.amiPar ≠ s.block.amiPar →
    (∃ data, i = .newseq data) ∨ i = .encAmi 1

/-! ### Invariants and reachable states (R12, R23) -/

/-- R22, R23: the reset state meets the invariant. -/
def Obligations.ResetMeetsInv : Prop := State.reset.Inv

/-- R12: every step, whatever the pins show, keeps `AMP_V = 0 and AMP = 0`, or `AMP_V = 1 and 1 <= AMP <= SMAX`;
and so does every step of the machine of any width (R4). -/
def Obligations.StepKeepsInv : Prop :=
  (∀ s t : State, s.Inv → step s = .next t → t.Inv) ∧
  (∀ (w : Nat) (s t : State w), Config.ValidWidth w → s.Inv → stepAt s = .next t → t.Inv)

/-- R23: the blocks that some host can bring about from reset are exactly those that meet the invariant. -/
def Obligations.ReachableBlocksAreExactlyInv : Prop :=
  ∀ b : Block Config.W,
    b.Inv ↔ ∃ (inputs : List (PortIn Config.W)) (k : Nat) (t : State),
      Host.Core.run core k { State.reset with inputs := inputs } = .next t ∧ t.block = b

/-! ### Several blocks, and the host around the block (R38, R110 to R120) -/

/-- R38: in any interleaving of any number of instances, each ends where its own steps alone take it. -/
def Obligations.InstancesDoNotInteract : Prop :=
  ∀ (w : Nat) (valid : Config.ValidWidth w) (schedule : List Nat) (sys sys' : List (State w)),
    runSchedule schedule sys = .next sys' →
    sys'.length = sys.length ∧
    ∀ (k : Nat) (s : State w), sys[k]? = some s →
      ∃ t : State w, Host.Core.run (coreAt w valid) (schedule.count k) s = .next t ∧ sys'[k]? = some t

/-- R110, R111: a text of code points up to 255 gives eight bits a character, most significant first, and comes back; fewer than
eight leftover bits are dropped; a code point above 255 is the EncodingError. -/
def Obligations.TextCodecRoundTrip : Prop :=
  (∀ text : List Char, (∀ c ∈ text, c.toNat ≤ 255) → ∃ bits, textEncode text = .ok bits ∧
    bits.length = 8 * text.length ∧ (∀ b ∈ bits, b = 0 ∨ b = 1) ∧
    (∀ (i j : Nat) (c : Char), text[i]? = some c → j < 8 →
      bits[8 * i + j]? = some (if c.toNat.testBit (7 - j) then 1 else 0)) ∧
    ∀ tail : List Int, tail.length < 8 → textDecode (bits ++ tail) = text) ∧
  (∀ bits : List Int, (∀ b ∈ bits, b = 0 ∨ b = 1) →
    textEncode (textDecode bits) = .ok (bits.take (8 * (bits.length / 8)))) ∧
  (∀ text : List Char, (∃ c ∈ text, 255 < c.toNat) → textEncode text = .error .encoding)

/-- R114, R120: the bounds of BER on bit sequences of equal length; 0 for a sequence and itself; 1 for one and its complement. -/
def Obligations.BerIsWithinBounds : Prop :=
  (∀ a b : List Int, a.length = b.length → 0 ≤ ber a b ∧ ber a b ≤ 1) ∧
  (∀ a : List Int, ber a a = 0) ∧
  (∀ a : List Int, a ≠ [] → ber a (a.map (1 - ·)) = 1) ∧
  (∀ b : List Int, ber [] b = 0)

/-- R118, R119, R120: with sigma forced to 0 and a quantiser that is the identity on integers in range, the host's run on the machine,
at every width, from any state, on either route, with any legal amplitude, recovers every text with a BER of 0. -/
def Obligations.NoiseFreeRunRecoversTheText : Prop :=
  ∀ (w : Nat) (quantise : ℝ → Sample w) (draws : Nat → ℝ) (text : List Char) (amplitude : Int) (sel : BitVec 2) (s : State w),
    Config.ValidWidth w → (∀ v : Sample w, quantise v.val = v) → (∀ c ∈ text, c.toNat ≤ 255) → 1 ≤ amplitude →
    amplitude ≤ Config.smax w → sel = 0b00#2 ∨ sel = 0b01#2 →
    hostRun (fun tx => channel quantise (noiseOf 0 draws tx.length) tx) text amplitude sel s = .ok (text, 0)

/-- R118: the host's run ends with the document's errors: an unrecognised selector first, before anything is done; then a text
that cannot be encoded; then a non-positive amplitude, which the block itself refuses. -/
def Obligations.HostRunReportsTheErrors : Prop :=
  ∀ (w : Nat) (chan : List Int → List Int) (text : List Char) (amplitude : Int) (sel : BitVec 2) (s : State w),
    Config.ValidWidth w →
    (sel = 0b10#2 ∨ sel = 0b11#2 → hostRun chan text amplitude sel s = .error .invalidModulation) ∧
    (sel = 0b00#2 ∨ sel = 0b01#2 → (∃ c ∈ text, 255 < c.toNat) → hostRun chan text amplitude sel s = .error .encoding) ∧
    (sel = 0b00#2 ∨ sel = 0b01#2 → (∀ c ∈ text, c.toNat ≤ 255) → Config.smin w ≤ amplitude → amplitude ≤ 0 →
      hostRun chan text amplitude sel s = .error (.block .invalidParameter))

/-- R118: from any state of any width, faulted or not, the host may run the stages element by element and gets the same result as
stage by stage, an error or the bits, where the channel works sample by sample. -/
def Obligations.StagesMayBeInterleaved : Prop :=
  ∀ (w : Nat) (link : Int → Sample w) (route : Route) (bits : List Int) (s : State w), Config.ValidWidth w →
    (∀ b ∈ bits, b = 0 ∨ b = 1) →
    hostInterleaved (fun x => (link x).val) route bits s = hostStages (fun tx => tx.map fun x => (link x).val) route bits s

/-! ### The machine of every width (R4) -/

/-- R4: `exec`, `step`, `reset` and `core` are the machine of width `Config.W`, which is a valid width; and on the machine of every
valid width a cycle is what R150, R153 and R60 say: a reset cycle, an idle cycle, or the block's step on the command word. -/
def Obligations.TheMachineIsTheOneOfItsWidth : Prop :=
  (∀ valid : Config.ValidWidth Config.W, core = coreAt Config.W valid) ∧ Config.ValidWidth Config.W ∧
  (∀ (i : Instr) (s : State), exec i s = execAt i s) ∧ (∀ s : State, step s = stepAt s) ∧ State.reset = State.resetAt Config.W ∧
  (∀ (w : Nat) (s : State w) (p : PortIn w) (rest : List (PortIn w)), Config.ValidWidth w → s.inputs = p :: rest →
    (p.rst = true → stepAt s =
      .next { block := { amiPar := false, amp := 0#w, ampV := false, fault := .noFault }, inputs := rest, rsp := none }) ∧
    (p.rst = false → p.cmdValid = false → stepAt s = .next { block := s.block, inputs := rest, rsp := none }) ∧
    (p.rst = false → p.cmdValid = true → stepAt s =
      .next { block := (s.block.step p.cmd).1, inputs := rest, rsp := some (s.block.step p.cmd).2 }))
end

