-- ==== Sys2Proof/Laws/State.lean ====
section
/-! SUPPORT. One lemma per field per named update, each true by rfl: no later proof unfolds a record update. -/

namespace Sys2Proof.Machine

variable {w : Nat}

@[simp] theorem Block.setAmiPar_amiPar (b : Block w) (p : Bool) : (b.setAmiPar p).amiPar = p := rfl
@[simp] theorem Block.setAmiPar_amp (b : Block w) (p : Bool) : (b.setAmiPar p).amp = b.amp := rfl
@[simp] theorem Block.setAmiPar_ampV (b : Block w) (p : Bool) : (b.setAmiPar p).ampV = b.ampV := rfl
@[simp] theorem Block.setAmiPar_fault (b : Block w) (p : Bool) : (b.setAmiPar p).fault = b.fault := rfl
@[simp] theorem Block.setAmiPar_amplitude (b : Block w) (p : Bool) : (b.setAmiPar p).amplitude = b.amplitude := rfl
@[simp] theorem Block.setAmiPar_self (b : Block w) : b.setAmiPar b.amiPar = b := rfl

@[simp] theorem Block.setAmp_amiPar (b : Block w) (a : BitVec w) : (b.setAmp a).amiPar = b.amiPar := rfl
@[simp] theorem Block.setAmp_amp (b : Block w) (a : BitVec w) : (b.setAmp a).amp = a := rfl
@[simp] theorem Block.setAmp_ampV (b : Block w) (a : BitVec w) : (b.setAmp a).ampV = true := rfl
@[simp] theorem Block.setAmp_fault (b : Block w) (a : BitVec w) : (b.setAmp a).fault = b.fault := rfl
@[simp] theorem Block.setAmp_amplitude (b : Block w) (a : BitVec w) : (b.setAmp a).amplitude = signedW a := rfl

@[simp] theorem Block.setFault_amiPar (b : Block w) (c : Cause) : (b.setFault c).amiPar = b.amiPar := rfl
@[simp] theorem Block.setFault_amp (b : Block w) (c : Cause) : (b.setFault c).amp = b.amp := rfl
@[simp] theorem Block.setFault_ampV (b : Block w) (c : Cause) : (b.setFault c).ampV = b.ampV := rfl
@[simp] theorem Block.setFault_fault (b : Block w) (c : Cause) : (b.setFault c).fault = c := rfl
@[simp] theorem Block.setFault_amplitude (b : Block w) (c : Cause) : (b.setFault c).amplitude = b.amplitude := rfl

@[simp] theorem Block.reset_amiPar : (Block.reset w).amiPar = false := rfl
@[simp] theorem Block.reset_amp : (Block.reset w).amp = 0#w := rfl
@[simp] theorem Block.reset_ampV : (Block.reset w).ampV = false := rfl
@[simp] theorem Block.reset_fault : (Block.reset w).fault = .noFault := rfl

@[simp] theorem State.resetAt_block : (State.resetAt w).block = Block.reset w := rfl
@[simp] theorem State.resetAt_inputs : (State.resetAt w).inputs = [] := rfl
@[simp] theorem State.resetAt_rsp : (State.resetAt w).rsp = none := rfl

@[simp] theorem State.resetCycle_block (s : State w) : s.resetCycle.block = Block.reset w := rfl
@[simp] theorem State.resetCycle_inputs (s : State w) : s.resetCycle.inputs = s.inputs := rfl
@[simp] theorem State.resetCycle_rsp (s : State w) : s.resetCycle.rsp = none := rfl

@[simp] theorem State.idleCycle_block (s : State w) : s.idleCycle.block = s.block := rfl
@[simp] theorem State.idleCycle_inputs (s : State w) : s.idleCycle.inputs = s.inputs := rfl
@[simp] theorem State.idleCycle_rsp (s : State w) : s.idleCycle.rsp = none := rfl

@[simp] theorem State.nextCycle_block (s : State w) : s.nextCycle.block = s.block := rfl
@[simp] theorem State.nextCycle_inputs (s : State w) : s.nextCycle.inputs = s.inputs.tail := rfl
@[simp] theorem State.nextCycle_rsp (s : State w) : s.nextCycle.rsp = s.rsp := rfl

end Sys2Proof.Machine
end

