-- ==== Sys2Proof/Laws/Ops.lean ====
section
/-! SUPPORT. What each shared operation can do, said once; provers cite these instead of unfolding the operations. -/

namespace Sys2Proof.Machine

variable {w : Nat}

theorem Block.unlessFaulted_of_ok {b : Block w} (h : b.fault = .noFault) (body : Result w) :
    b.unlessFaulted body = body := if_pos h

theorem Block.unlessFaulted_of_faulted {b : Block w} (h : b.fault ≠ .noFault) (body : Result w) :
    b.unlessFaulted body = (b, ⟨b.fault, 0#w⟩) := if_neg h

@[simp] theorem Block.checked_true (b : Block w) (body : Result w) : b.checked true body = body := rfl

@[simp] theorem Block.checked_false (b : Block w) (body : Result w) :
    b.checked false body = b.raise .invalidParameter := rfl

@[simp] theorem Block.respond_fst (b : Block w) (d : BitVec w) : (b.respond d).1 = b := rfl
@[simp] theorem Block.respond_snd (b : Block w) (d : BitVec w) : (b.respond d).2 = ⟨.noFault, d⟩ := rfl
@[simp] theorem Block.raise_fst (b : Block w) (c : Cause) : (b.raise c).1 = b.setFault c := rfl
@[simp] theorem Block.raise_snd (b : Block w) (c : Cause) : (b.raise c).2 = ⟨c, 0#w⟩ := rfl

theorem isBit_iff (v : Int) : isBit v = true ↔ v = 0 ∨ v = 1 := by simp [isBit]

theorem isSym_iff (v : Int) : isSym v = true ↔ v = -1 ∨ v = 0 ∨ v = 1 := by simp [isSym, or_assoc]

theorem State.answer_eq (s : State w) (r : Result w) :
    s.answer r = .next { block := r.1, inputs := s.inputs, rsp := some r.2 } := rfl

/-- `exec` is the execution of a command on the machine of the spec's width (R4): its meanings are those of every width. -/
theorem exec_eq_execAt : exec = execAt (w := Config.W) := by
  funext i s
  cases i <;> rfl

/-- `exec` is the block's step at the machine's width, with its response put on the port (R4, R49, R60). -/
theorem exec_is_command (i : Instr) (s : State) : exec i s = s.answer (s.block.command i) := by
  rw [exec_eq_execAt]
  rfl

/-- What an executed command leaves: the block's result, its response on the port, and the pins as they were (R35, R49). -/
theorem execAt_next {i : Instr} {s t : State w} (h : execAt i s = .next t) :
    t = { block := (s.block.command i).1, inputs := s.inputs, rsp := some (s.block.command i).2 } := by
  rw [execAt, State.answer_eq] at h
  cases h
  rfl

theorem exec_next {i : Instr} {s t : State} (h : exec i s = .next t) :
    t = { block := (s.block.command i).1, inputs := s.inputs, rsp := some (s.block.command i).2 } :=
  execAt_next (exec_eq_execAt ▸ h)

/-- A faulted block changes nothing, whatever the command is (R136). -/
theorem command_of_faulted {b : Block w} (h : b.fault ≠ .noFault) (i : Instr) :
    (b.command i).1 = b ∧ (b.command i).2.err = b.fault := by
  cases i
  case rdstat data => exact ⟨rfl, rfl⟩
  all_goals exact ⟨congrArg Prod.fst (Block.unlessFaulted_of_faulted h _),
    congrArg (fun r => r.2.err) (Block.unlessFaulted_of_faulted h _)⟩

/-! ### The ports (R150, R153) -/

theorem PortIn.cycle_of_rst {p : PortIn w} (h : p.rst = true) : p.cycle = .reset := by simp [PortIn.cycle, h]

theorem PortIn.cycle_of_command {p : PortIn w} (h : p.rst = false) (hv : p.cmdValid = true) :
    p.cycle = .command p.cmd := by simp [PortIn.cycle, h, hv]

theorem PortIn.cycle_of_idle {p : PortIn w} (h : p.rst = false) (hv : p.cmdValid = false) : p.cycle = .idle := by
  simp [PortIn.cycle, h, hv]

@[simp] theorem PortIn.cycle_word (cmd : CmdWord w) : (PortIn.word cmd).cycle = .command cmd := rfl
@[simp] theorem PortIn.cycle_nothing : (PortIn.nothing w).cycle = .idle := rfl

theorem State.cycle_nil {s : State w} (h : s.inputs = []) : s.cycle = .idle := by simp [State.cycle, h]

theorem State.cycle_cons {s : State w} {p : PortIn w} {rest : List (PortIn w)} (h : s.inputs = p :: rest) :
    s.cycle = p.cycle := by simp [State.cycle, h]

end Sys2Proof.Machine
end

