-- ==== Sys2Proof/Laws/Words.lean ====
section
/-! SUPPORT. The two readings of a word, `signed_W` and `tc_W`, in the spec's own formulas, and their round trips;
the fields of a word that `encode` builds. -/

namespace Sys2Proof

variable {w : Nat}

/-- 00_scope.md §6: `d` if `d < 2^(W-1)`, else `d - 2^W`. -/
theorem signedW_formula (hw : 0 < w) (d : BitVec w) :
    signedW d = if d.toNat < 2 ^ (w - 1) then (d.toNat : Int) else (d.toNat : Int) - (2 ^ w : Nat) := by
  obtain ⟨k, rfl⟩ : ∃ k, w = k + 1 := ⟨w - 1, by omega⟩
  unfold signedW BitVec.toInt
  have h : 2 ^ (k + 1) = 2 * 2 ^ k := by rw [Nat.pow_succ]; omega
  simp only [Nat.add_sub_cancel]
  by_cases hd : d.toNat < 2 ^ k
  · rw [if_pos hd, if_pos (by omega)]
  · rw [if_neg hd, if_neg (by omega)]

/-- R4, R43: every pattern is a value in `SMIN .. SMAX`. -/
theorem dataFits_signedW (hw : 0 < w) (d : BitVec w) : dataFits w (signedW d) = true := by
  have hlt := d.isLt
  obtain ⟨k, rfl⟩ : ∃ k, w = k + 1 := ⟨w - 1, by omega⟩
  have h : 2 ^ (k + 1) = 2 * 2 ^ k := by rw [Nat.pow_succ]; omega
  rw [signedW_formula hw]
  simp only [dataFits, Config.smin, Config.smax, Nat.add_sub_cancel, Bool.and_eq_true, decide_eq_true_eq]
  split <;> omega

theorem dataFits_iff (v : Int) : dataFits w v = true ↔ Config.smin w ≤ v ∧ v ≤ Config.smax w := by
  simp [dataFits]

/-- A pattern is the pattern of its value. -/
@[simp] theorem tcW_signedW (d : BitVec w) : tcW w (signedW d) = d := BitVec.ofInt_toInt

/-- The value of the pattern of `v` is `v`, for every `v` the spec defines `tc_W` on. -/
theorem signedW_tcW (hw : 0 < w) {v : Int} (h : dataFits w v = true) : signedW (tcW w v) = v := by
  obtain ⟨k, rfl⟩ : ∃ k, w = k + 1 := ⟨w - 1, by omega⟩
  rw [dataFits_iff] at h
  simp only [Config.smin, Config.smax, Nat.add_sub_cancel] at h
  have hp : 2 ^ (k + 1) = 2 * 2 ^ k := by rw [Nat.pow_succ]; omega
  unfold signedW tcW
  rw [BitVec.toInt_ofInt, Int.bmod_eq_of_le] <;> omega

/-- 00_scope.md §6: `tc_W(v)` is `v` if `v >= 0`, else `v + 2^W`. -/
theorem tcW_formula (hw : 0 < w) {v : Int} (h : dataFits w v = true) :
    ((tcW w v).toNat : Int) = if 0 ≤ v then v else v + (2 ^ w : Nat) := by
  obtain ⟨k, rfl⟩ : ∃ k, w = k + 1 := ⟨w - 1, by omega⟩
  rw [dataFits_iff] at h
  simp only [Config.smin, Config.smax, Nat.add_sub_cancel] at h
  have hp : 2 ^ (k + 1) = 2 * 2 ^ k := by rw [Nat.pow_succ]; omega
  unfold tcW
  rw [BitVec.toNat_ofInt]
  have hpos : (0 : Int) < ((2 ^ (k + 1) : Nat) : Int) := by positivity
  rw [Int.toNat_of_nonneg (Int.emod_nonneg _ (by omega))]
  split
  · exact Int.emod_eq_of_lt (by omega) (by omega)
  · rw [← Int.add_emod_right]
    exact Int.emod_eq_of_lt (by omega) (by omega)

/-- The OPC of the word `encode` builds (R40). -/
@[simp] theorem opcField_encode (i : Instr) : opcField (encode w i) = i.opcode := by
  unfold opcField encode
  ext j hj
  simp [BitVec.getElem_extractLsb', BitVec.getLsbD_append, hj]

/-- The DATA of the word `encode` builds (R40). -/
@[simp] theorem dataField_encode (i : Instr) : dataField (encode w i) = tcW w i.operand := by
  unfold dataField encode
  ext j hj
  simp [BitVec.getElem_extractLsb', BitVec.getLsbD_append, hj]

@[simp] theorem opcField_append (opc : BitVec 5) (data : BitVec w) : opcField (opc ++ data : CmdWord w) = opc := by
  unfold opcField
  ext j hj
  simp [BitVec.getElem_extractLsb', BitVec.getLsbD_append, hj]

@[simp] theorem dataField_append (opc : BitVec 5) (data : BitVec w) : dataField (opc ++ data : CmdWord w) = data := by
  unfold dataField
  ext j hj
  simp [BitVec.getElem_extractLsb', BitVec.getLsbD_append, hj]

/-- A word is its two fields put together (R40). -/
theorem fields_append (cmd : CmdWord w) : opcField cmd ++ dataField cmd = cmd := by
  unfold opcField dataField
  ext j hj
  simp only [BitVec.getElem_append, BitVec.getElem_extractLsb']
  split
  · simp [BitVec.getLsbD_eq_getElem hj]
  · next h => simp [BitVec.getLsbD_eq_getElem hj, Nat.add_sub_cancel' (Nat.le_of_not_lt h)]

end Sys2Proof
end

