-- ==== Sys2Proof/Laws/PerInstr.lean ====
section
/-! SUPPORT. Laws stated for each constructor of Instr. -/

namespace Sys2Proof.Laws.EncodedOpcode

/-- The OPC of a well-formed command is a code of its row of the opcode table (spec R44 to R46). -/
def Statement (i : Instr) : Prop := ∀ w : Nat, i.wellFormed w = true → i.row.selects (opcField (encode w i)) = true

theorem nop (data : Int) : Statement (.nop data) := by intro w _; simp [Instr.row, Instr.opcode, OpcRow.selects]
theorem setamp (a : Int) : Statement (.setamp a) := by intro w _; simp [Instr.row, Instr.opcode, OpcRow.selects]
theorem newseq (data : Int) : Statement (.newseq data) := by intro w _; simp [Instr.row, Instr.opcode, OpcRow.selects]
theorem rdstat (data : Int) : Statement (.rdstat data) := by intro w _; simp [Instr.row, Instr.opcode, OpcRow.selects]
theorem encAmi (b : Int) : Statement (.encAmi b) := by intro w _; simp [Instr.row, Instr.opcode, OpcRow.selects]
theorem encNrz (b : Int) : Statement (.encNrz b) := by intro w _; simp [Instr.row, Instr.opcode, OpcRow.selects]
theorem modAsk (sym : Int) : Statement (.modAsk sym) := by intro w _; simp [Instr.row, Instr.opcode, OpcRow.selects]
theorem modBpsk (sym : Int) : Statement (.modBpsk sym) := by intro w _; simp [Instr.row, Instr.opcode, OpcRow.selects]
theorem demAsk (r : Int) : Statement (.demAsk r) := by intro w _; simp [Instr.row, Instr.opcode, OpcRow.selects]
theorem demBpsk (r : Int) : Statement (.demBpsk r) := by intro w _; simp [Instr.row, Instr.opcode, OpcRow.selects]
theorem decAmi (sym : Int) : Statement (.decAmi sym) := by intro w _; simp [Instr.row, Instr.opcode, OpcRow.selects]
theorem decNrz (sym : Int) : Statement (.decNrz sym) := by intro w _; simp [Instr.row, Instr.opcode, OpcRow.selects]

theorem rsvSel_bits : ∀ unit sel : BitVec 2, selUnrecognised sel = true →
    (Instr.rsvSel unit sel 0).row.selects (Instr.rsvSel unit sel 0).opcode = true := by decide

theorem rsvSel (unit sel : BitVec 2) (data : Int) : Statement (.rsvSel unit sel data) := by
  intro w h
  rw [opcField_encode]
  exact rsvSel_bits unit sel (by simp_all [Instr.wellFormed])

theorem rsvCtl4to7_bits : ∀ func : BitVec 4, 4 ≤ func.toNat → func.toNat < 8 →
    (Instr.rsvCtl4to7 func 0).row.selects (Instr.rsvCtl4to7 func 0).opcode = true := by decide

theorem rsvCtl4to7 (func : BitVec 4) (data : Int) : Statement (.rsvCtl4to7 func data) := by
  intro w h
  rw [opcField_encode]
  simp only [Instr.wellFormed, Bool.and_eq_true, decide_eq_true_eq] at h
  exact rsvCtl4to7_bits func h.1.1 h.1.2

theorem rsvCtl8to15_bits : ∀ func : BitVec 4, 8 ≤ func.toNat →
    (Instr.rsvCtl8to15 func 0).row.selects (Instr.rsvCtl8to15 func 0).opcode = true := by decide

theorem rsvCtl8to15 (func : BitVec 4) (data : Int) : Statement (.rsvCtl8to15 func data) := by
  intro w h
  rw [opcField_encode]
  simp only [Instr.wellFormed, Bool.and_eq_true, decide_eq_true_eq] at h
  exact rsvCtl8to15_bits func h.1

end Sys2Proof.Laws.EncodedOpcode
end

