-- ==== Sys2Proof/Laws/Run.lean ====
section
/-! SUPPORT. What a step can do, said once for every width, and how runs and transcripts are made of steps. -/

namespace Sys2Proof.Machine

variable {w : Nat}

/-- The step the host runs is that of the machine of the spec's width (R4). -/
theorem step_eq_stepAt : step = stepAt (w := Config.W) := by
  funext s
  rw [step, stepAt, exec_eq_execAt]

/-- The machine the host runs is the one of the spec's width (R4). -/
theorem core_eq_coreAt : core = coreAt Config.W Config.validWidth_W := by
  rw [core, coreAt, step_eq_stepAt]
  rfl

/-- The three things a step is (R60, R150, R153): a reset cycle, an idle cycle, or the answer to the command presented. -/
theorem stepAt_cases {s t : State w} (h : stepAt s = .next t) :
    (s.cycle = .reset ∧ t = s.nextCycle.resetCycle) ∨
    (s.cycle = .idle ∧ t = s.nextCycle.idleCycle) ∨
    (∃ cmd, s.cycle = .command cmd ∧
      t = { block := (s.block.step cmd).1, inputs := s.inputs.tail, rsp := some (s.block.step cmd).2 }) := by
  unfold stepAt State.cycleWith at h
  cases hc : s.cycle with
  | reset => rw [hc] at h; cases h; exact .inl ⟨rfl, rfl⟩
  | idle => rw [hc] at h; cases h; exact .inr (.inl ⟨rfl, rfl⟩)
  | command cmd =>
    rw [hc] at h
    exact .inr (.inr ⟨cmd, rfl, execAt_next h⟩)

theorem step_cases {s t : State} (h : step s = .next t) :
    (s.cycle = .reset ∧ t = s.nextCycle.resetCycle) ∨
    (s.cycle = .idle ∧ t = s.nextCycle.idleCycle) ∨
    (∃ cmd, s.cycle = .command cmd ∧
      t = { block := (s.block.step cmd).1, inputs := s.inputs.tail, rsp := some (s.block.step cmd).2 }) :=
  stepAt_cases (step_eq_stepAt ▸ h)

/-- A step moves the pins on by one cycle, whatever it does. -/
theorem stepAt_inputs {s t : State w} (h : stepAt s = .next t) : t.inputs = s.inputs.tail := by
  rcases stepAt_cases h with ⟨-, rfl⟩ | ⟨-, rfl⟩ | ⟨_, -, rfl⟩ <;> rfl

theorem step_inputs {s t : State} (h : step s = .next t) : t.inputs = s.inputs.tail :=
  stepAt_inputs (step_eq_stepAt ▸ h)

/-- Every step has a next state (R140). -/
theorem stepAt_total (s : State w) : ∃ t, stepAt s = .next t := by
  unfold stepAt State.cycleWith
  cases s.cycle <;> exact ⟨_, rfl⟩

/-- The cycle after the pins `word cmd` is the command's. -/
theorem stepAt_word {s : State w} {cmd : CmdWord w} {rest : List (PortIn w)} (h : s.inputs = .word cmd :: rest) :
    stepAt s = .next { block := (s.block.step cmd).1, inputs := rest, rsp := some (s.block.step cmd).2 } := by
  simp [stepAt, State.cycleWith, State.cycle_cons h, State.nextCycle, h, execAt, State.answer, Block.step]

theorem step_word {s : State} {cmd : CmdWord Config.W} {rest : List (PortIn Config.W)} (h : s.inputs = .word cmd :: rest) :
    step s = exec (decode cmd) { s with inputs := rest } := by
  simp [step, State.cycleWith, State.cycle_cons h, State.nextCycle, h]

@[simp] theorem run_zero (s : State) : Host.Core.run core 0 s = .next s := rfl

/-- One more step of any machine of the host's interface. -/
theorem run_succ_of_step (M : Host.Core) {s t : M.State} (h : M.step s = .next t) (k : Nat) :
    M.run (k + 1) s = M.run k t := by
  rw [Host.Core.run, h]

theorem run_succ {s t : State} (h : step s = .next t) (k : Nat) :
    Host.Core.run core (k + 1) s = Host.Core.run core k t :=
  run_succ_of_step core h k

theorem runAt_succ {hw : Config.ValidWidth w} {s t : State w} (h : stepAt s = .next t) (k : Nat) :
    Host.Core.run (coreAt w hw) (k + 1) s = Host.Core.run (coreAt w hw) k t :=
  run_succ_of_step (coreAt w hw) h k

@[simp] theorem transcript_zero (s : State w) : transcript 0 s = [] := rfl

theorem transcript_succ {s t : State w} (h : stepAt s = .next t) (k : Nat) :
    transcript (k + 1) s = t.rsp :: transcript k t := by
  simp [transcript, h]

end Sys2Proof.Machine
end

