-- ==== Sys2Proof/Tests/Slice0.lean ====
section
/-! SUPPORT. The model's own tests. Words and expected results are those of the spec (95_test_vectors.md, R44, R51), none is the
model's own answer. The theorems `witness_…` show, for a statement of Obligations.lean of that name, that its hypotheses can be met. -/

namespace Sys2Proof.Machine.Tests

/-- The state `(AMI_PAR, AMP, AMP_V, FAULT)` as 95_test_vectors.md prints it, with nothing on the ports. -/
def st (par : Bool) (amp : Int) (v : Bool) (f : Cause) : State := { block := ⟨par, tcW 16 amp, v, f⟩, inputs := [], rsp := none }

/-- The block and the response after an outcome. -/
def seen : Host.Outcome State Fault Refusal → Option (Block 16 × Option (Response 16))
  | .next t => some (t.block, t.rsp)
  | .fault _ => none
  | .refused _ => none

/-- What one step shows when the host presents the word `n`. -/
def present (n : Nat) (s : State) : Option (Block 16 × Option (Response 16)) := seen (step (s.withFetchWord 24 n))

/-- The state after, the ERR and the DATA, as a row of 95_test_vectors.md gives them. -/
def row (s : State) (err : Cause) (data : BitVec 16) : Option (Block 16 × Option (Response 16)) := some (s.block, some ⟨err, data⟩)

/-! ### WellFormed: an ill-formed term for each check -/

theorem test_wf_data_above_smax : (Instr.nop 32768).wellFormed 16 = false := by decide
theorem test_wf_data_below_smin : (Instr.demAsk (-32769)).wellFormed 16 = false := by decide
theorem test_wf_data_at_the_ends :
    (Instr.demAsk 32767).wellFormed 16 = true ∧ (Instr.demBpsk (-32768)).wellFormed 16 = true := by decide
theorem test_wf_recognised_selector : (Instr.rsvSel 0 1 0).wellFormed 16 = false := by decide
theorem test_wf_reserved_selector_data : (Instr.rsvSel 0 2 32768).wellFormed 16 = false := by decide
theorem test_wf_function_below_4 : (Instr.rsvCtl4to7 3 0).wellFormed 16 = false := by decide
theorem test_wf_function_above_7 : (Instr.rsvCtl4to7 8 0).wellFormed 16 = false := by decide
theorem test_wf_function_below_8 : (Instr.rsvCtl8to15 7 0).wellFormed 16 = false := by decide
theorem test_wf_function_data : (Instr.rsvCtl8to15 8 (-32769)).wellFormed 16 = false := by decide
theorem test_wf_all_operands : ∀ op ∈ [Instr.setamp, .newseq, .rdstat, .encAmi, .encNrz, .modAsk, .modBpsk, .demBpsk, .decAmi, .decNrz],
    (op 32768).wellFormed 16 = false := by decide

/-! ### Decoding: words written out bit by bit from R40 and R44, OPC then DATA -/

theorem test_decode_nop : decode (w := 16) 0b00000_0000000000000000#21 = .nop 0 := by decide
theorem test_decode_setamp : decode (w := 16) 0b00001_0000001111101000#21 = .setamp 1000 := by decide
theorem test_decode_newseq : decode (w := 16) 0b00010_1011111011101111#21 = .newseq (-16657) := by decide
theorem test_decode_rdstat : decode (w := 16) 0b00011_0001001000110100#21 = .rdstat 0x1234 := by decide
theorem test_decode_encAmi : decode (w := 16) 0b10000_0000000000000001#21 = .encAmi 1 := by decide
theorem test_decode_encNrz : decode (w := 16) 0b10001_0000000000000000#21 = .encNrz 0 := by decide
theorem test_decode_modAsk : decode (w := 16) 0b10100_1111111111111111#21 = .modAsk (-1) := by decide
theorem test_decode_modBpsk : decode (w := 16) 0b10101_0000000000000001#21 = .modBpsk 1 := by decide
theorem test_decode_demAsk : decode (w := 16) 0b11000_1111111000001100#21 = .demAsk (-500) := by decide
theorem test_decode_demBpsk : decode (w := 16) 0b11001_1000000000000000#21 = .demBpsk (-32768) := by decide
theorem test_decode_decAmi : decode (w := 16) 0b11100_1111111111111111#21 = .decAmi (-1) := by decide
theorem test_decode_decNrz : decode (w := 16) 0b11101_0000000000000000#21 = .decNrz 0 := by decide
theorem test_decode_rsvSel : decode (w := 16) 0b11010_1111111111111110#21 = .rsvSel 2 2 (-2) := by decide
theorem test_decode_rsvCtl4to7 : decode (w := 16) 0b00111_0000000000000000#21 = .rsvCtl4to7 7 0 := by decide
theorem test_decode_rsvCtl8to15 : decode (w := 16) 0b01111_0001001000110100#21 = .rsvCtl8to15 15 0x1234 := by decide
theorem test_decode_another_width : decode (w := 4) 0b10100_1111#9 = .modAsk (-1) := by decide
theorem test_encode_words : encode 16 (.encAmi 1) = 0x100001#21 ∧ encode 16 (.modAsk (-1)) = 0x14FFFF#21 := by decide
theorem test_table_word : decodeTableWord 24 0x1803E8 = some (.demAsk 1000) ∧ decodeTableWord 24 0x200000 = none := by decide
theorem test_wide_number_is_not_presented :
    seen (step ((st true 5 true .noFault).withFetchWord 24 0x300001)) = some ((st true 5 true .noFault).block, none) := by decide
theorem test_response_word : (⟨.invalidParameter, 0x0008#16⟩ : Response 16).word = 0x20008#18 := by decide

/-! ### One step each, from 95_test_vectors.md §2 -/

theorem test_nop_data_ignored : present 0x00FFFF (st false 0 false .noFault) = row (st false 0 false .noFault) .noFault 0x0000 := by decide
theorem test_setamp_replaces : present 0x010FA0 (st true 1000 true .noFault) = row (st true 4000 true .noFault) .noFault 0x0000 := by decide
theorem test_setamp_zero_keeps_old : present 0x010000 (st false 1000 true .noFault) = row (st false 1000 true .invalidParameter) .invalidParameter 0x0000 := by decide
theorem test_newseq_clears : present 0x020000 (st true 0 false .noFault) = row (st false 0 false .noFault) .noFault 0x0000 := by decide
theorem test_rdstat_flags : present 0x030000 (st true 7 true .noFault) = row (st true 7 true .noFault) .noFault 0x0003 := by decide
theorem test_rdstat_faulted : present 0x030000 (st true 1000 true .invalidModulation) = row (st true 1000 true .invalidModulation) .invalidModulation 0x0007 := by decide
theorem test_encAmi_second_mark : present 0x100001 (st true 0 false .noFault) = row (st false 0 false .noFault) .noFault 0xFFFF := by decide
theorem test_encAmi_not_a_bit : present 0x100002 (st true 0 false .noFault) = row (st true 0 false .invalidParameter) .invalidParameter 0x0000 := by decide
theorem test_encNrz_zero : present 0x110000 (st false 0 false .noFault) = row (st false 0 false .noFault) .noFault 0xFFFF := by decide
theorem test_encNrz_keeps_parity : present 0x110001 (st true 0 false .noFault) = row (st true 0 false .noFault) .noFault 0x0001 := by decide
theorem test_modAsk_largest : present 0x14FFFF (st false 32767 true .noFault) = row (st false 32767 true .noFault) .noFault 0x8001 := by decide
theorem test_modAsk_no_amplitude : present 0x140001 (st false 0 false .noFault) = row (st false 0 false .invalidParameter) .invalidParameter 0x0000 := by decide
theorem test_modBpsk_zero_symbol : present 0x150000 (st false 256 true .noFault) = row (st false 256 true .noFault) .noFault 0x0000 := by decide
theorem test_modBpsk_not_a_symbol : present 0x15FFFE (st false 5 true .noFault) = row (st false 5 true .invalidParameter) .invalidParameter 0x0000 := by decide
theorem test_demAsk_on_threshold : present 0x1801F4 (st false 1000 true .noFault) = row (st false 1000 true .noFault) .noFault 0x0000 := by decide
theorem test_demAsk_below_threshold : present 0x18FE0B (st false 1000 true .noFault) = row (st false 1000 true .noFault) .noFault 0xFFFF := by decide
theorem test_demBpsk_zero : present 0x190000 (st false 1000 true .noFault) = row (st false 1000 true .noFault) .noFault 0x0001 := by decide
theorem test_demBpsk_no_amplitude : present 0x190005 (st false 0 false .noFault) = row (st false 0 false .invalidParameter) .invalidParameter 0x0000 := by decide
theorem test_decAmi_minus : present 0x1CFFFF (st false 0 false .noFault) = row (st false 0 false .noFault) .noFault 0x0001 := by decide
theorem test_decAmi_not_a_symbol : present 0x1C0002 (st false 0 false .noFault) = row (st false 0 false .invalidParameter) .invalidParameter 0x0000 := by decide
theorem test_decNrz_zero_symbol : present 0x1D0000 (st false 0 false .noFault) = row (st false 0 false .noFault) .noFault 0x0001 := by decide
theorem test_decNrz_minus : present 0x1DFFFF (st false 0 false .noFault) = row (st false 0 false .noFault) .noFault 0x0000 := by decide
theorem test_rsvSel_before_parameters : present 0x120005 (st true 1000 true .noFault) = row (st true 1000 true .invalidModulation) .invalidModulation 0x0000 := by decide
theorem test_rsvSel_keeps_first_cause : present 0x120005 (st false 0 false .invalidParameter) = row (st false 0 false .invalidParameter) .invalidParameter 0x0000 := by decide
theorem test_rsvCtl4to7_faults : present 0x040000 (st false 0 false .noFault) = row (st false 0 false .illegalCommand) .illegalCommand 0x0000 := by decide
theorem test_rsvCtl8to15_faults : present 0x0F1234 (st false 0 false .noFault) = row (st false 0 false .illegalCommand) .illegalCommand 0x0000 := by decide

/-- 95_test_vectors.md §2.7: reset wins over the command presented with it. -/
theorem test_reset_wins : seen (step { st true 1000 true .noFault with inputs := [⟨true, true, 0x100001#21⟩] }) =
    some ((st false 0 false .noFault).block, none) := by decide

/-- 95_test_vectors.md §2.7: an idle cycle. -/
theorem test_idle : seen (step { st true 1000 true .noFault with inputs := [⟨false, false, 0x100001#21⟩] }) =
    some ((st true 1000 true .noFault).block, none) := by decide

/-! ### Sequences, assembler, host (95_test_vectors.md §1, R51, R110, R114) -/

theorem test_t1_ami_example : encodeAmi [1, 0, 1, 1, 0] = [1, 0, -1, 1, 0] := by decide
theorem test_t5_ami_example : encodeAmi [1, 1, 1, 1, 0, 1] = [1, -1, 1, -1, 0, 1] := by decide
theorem test_t2_text_bits : codePointBits 72 ++ codePointBits 105 = [0, 1, 0, 0, 1, 0, 0, 0, 0, 1, 1, 0, 1, 0, 0, 1] := by decide
theorem test_t2_text_back : textDecode [0, 1, 0, 0, 1, 0, 0, 0, 0, 1, 1, 0, 1, 0, 0, 1] = ['H', 'i'] := by decide
theorem test_t5_ber : ber [1, 0, 1, 1, 0] [1, 0, 1, 0, 0] = 1 / 5 := by
  rw [ber, if_neg (by decide)]; norm_num
theorem test_p4_demodulate : [1130, -420, -615, 480, 90].map (sliceAsk · 1000) = [1, 0, -1, 0, 0] := by decide
theorem test_p6_mixed_route : nrz 0 = -1 ∧ modulateSymbol (-1) 1000 = -1000 ∧ sliceAsk (-1000) 1000 = -1 ∧ decAmiBit (-1) = 1 := by decide
theorem test_r112_power : meanPower [2, -2, 0, 4] = 6 ∧ IsNoisePower [2, -2] 8 (1 / 2) ∧ IsNoisePower [2, -2] 0 0 := by
  refine ⟨?_, ?_, ?_⟩ <;> simp [meanPower, IsNoisePower] <;> norm_num
/-- R4, R62: a machine of width 4 takes the largest amplitude of its own range. -/
theorem test_another_width : stepAt { State.resetAt 4 with inputs := [.command 4 (.setamp 7)] } =
    .next { block := ⟨false, 7#4, true, .noFault⟩, inputs := [], rsp := some ⟨.noFault, 0#4⟩ } := rfl
theorem test_asm_comment_only : assembleLine 16 "; nothing here".toList = .ok none := by decide
theorem test_asm_plus_sign : assembleLine 16 "MOD.ASK +1".toList = .ok (some 0x140001#21) := by decide
theorem test_asm_refusals : assembleLine 16 "ENC.AMI".toList = .error .operandCount ∧ assembleLine 16 "NOP 1".toList = .error .operandCount ∧
    assembleLine 16 "JMP 1".toList = .error .unknownMnemonic ∧ assembleLine 16 "SETAMP 70000".toList = .error .badOperand := by decide

/-! ### Witnesses: the hypotheses of the statements can be met -/

/-- A block without a fault and with the amplitude 1000, and the same with the command `i` presented next. -/
def ready : State := st false 1000 true .noFault
def shown (i : Instr) : State := { ready with inputs := [.command 16 i] }

theorem witness_DecodeInvertsEncode : 4 ≤ 16 ∧ (Instr.demAsk (-32768)).wellFormed 16 = true ∧ (Instr.rsvSel 3 3 32767).wellFormed 16 = true := by decide
theorem witness_EncodeInvertsDecode : 4 ≤ 4 := by decide
theorem witness_EveryOpcodeHasOneMeaning : opcField (w := 16) 0x10FFFF#21 = opcField (w := 16) 0x100000#21 := by decide
theorem witness_ResetAndNothingElseClearsFault :
    (∃ p rest, ({ ready with inputs := [⟨true, true, 0⟩] } : State).inputs = p :: rest ∧ p.rst = true) ∧
    (∃ s t : State, step s = .next t ∧ s.block.fault ≠ .noFault ∧ t.block.fault = .noFault) :=
  ⟨⟨_, _, rfl, rfl⟩, ⟨{ st true 1 true .illegalCommand with inputs := [⟨true, false, 0⟩] }, _, rfl, by decide, by decide⟩⟩
theorem witness_IdleCyclesChangeNothing :
    (∀ p ∈ [PortIn.nothing 16], p.rst = false ∧ p.cmdValid = false) ∧ [PortIn.nothing 16] ≠ [] ∧ ready.inputs = [] := by decide
theorem witness_StepRunsTheDecodedCommand :
    (∃ p rest, (shown (.encAmi 1)).inputs = p :: rest ∧ p.rst = false ∧ p.cmdValid = true) ∧ 2 ^ 21 - 1 < 2 ^ 21 :=
  ⟨⟨_, _, rfl, rfl, rfl⟩, by decide⟩
theorem witness_without_a_fault : ready.block.fault = .noFault ∧ State.reset.block.fault = .noFault := by decide
theorem witness_SetampLoadsPositiveAmplitudes :
    (Instr.setamp 1).wellFormed 16 = true ∧ (Instr.setamp 32767).wellFormed 16 = true ∧ (Instr.setamp 0).wellFormed 16 = true ∧
    (Instr.setamp (-32768)).wellFormed 16 = true ∧ State.reset.block.fault = .noFault := by decide
theorem witness_StatusShowsTheFlags : 4 ≤ 4 ∧ ready.block.fault = .noFault ∧ ready.block.ampV = true := by decide
theorem witness_EncAmiEncodesABit : (st true 0 false .noFault).block.amiPar = true ∧ (st false 0 false .noFault).block.amiPar = false ∧
    (st true 0 false .noFault).block.fault = .noFault ∧ (2 : Int) ≠ 0 ∧ (-1 : Int) ≠ 1 := by decide
theorem witness_EncNrzEncodesABit : ready.block.fault = .noFault ∧ (2 : Int) ≠ 0 ∧ (2 : Int) ≠ 1 := by decide
theorem witness_EncAmiCommandsComputeEncodeAmi :
    ∃ s : State, s.block.fault = .noFault ∧ (∀ b ∈ [(1 : Int), 0, 1], b = 0 ∨ b = 1) ∧
      s.inputs = .command Config.W (.newseq 7) :: commandsOf 16 .encAmi [1, 0, 1] ++ [.nothing 16] :=
  ⟨{ ready with inputs := .command Config.W (.newseq 7) :: commandsOf 16 .encAmi [1, 0, 1] ++ [.nothing 16] }, rfl, by decide, rfl⟩
theorem witness_EncAmiCommandsComputeEncodeAmi_afterReset :
    ∃ s : State, s.block.fault = .noFault ∧ s.block.amiPar = false ∧ s.inputs = commandsOf 16 .encAmi [1, 0, 1] ++ [] :=
  ⟨{ State.reset with inputs := commandsOf 16 .encAmi [1, 0, 1] ++ [] }, rfl, rfl, rfl⟩
theorem witness_MissingNewseqInvertsEverySign :
    ∃ s : State, s.block.fault = .noFault ∧ s.block.amiPar = true ∧ (∀ b ∈ [(1 : Int), 1], b = 0 ∨ b = 1) ∧
      s.inputs = commandsOf 16 .encAmi [1, 1] ++ [] :=
  ⟨{ st true 5 true .noFault with inputs := commandsOf 16 .encAmi [1, 1] ++ [] }, rfl, rfl, by decide, rfl⟩
theorem witness_EncNrzCommandsComputeEncodeNrz :
    ∃ s : State, s.block.fault = .noFault ∧ (∀ b ∈ [(1 : Int), 0], b = 0 ∨ b = 1) ∧ s.inputs = commandsOf 16 .encNrz [1, 0] ++ [] :=
  ⟨{ ready with inputs := commandsOf 16 .encNrz [1, 0] ++ [] }, rfl, by decide, rfl⟩
theorem witness_AmiMarksAlternate : (∀ b ∈ [(1 : Int), 0, 1], b = 0 ∨ b = 1) ∧ [(1 : Int), 0, 1][1]? = some 0 := by decide
theorem witness_EncodersKeepLengthAndAlphabet : ∀ b ∈ [(0 : Int), 1, 1], b = 0 ∨ b = 1 := by decide
theorem witness_AmiParCountsExecutedOnes :
    ∃ t, ((shown (.encAmi 1)).block.amiPar = true ↔ 0 % 2 = 1) ∧ Host.Core.run core 1 (shown (.encAmi 1)) = .next t ∧
      t.block.amiPar = true := ⟨_, by decide, rfl, by decide⟩
theorem witness_ModAskScalesASymbol : ready.block.fault = .noFault ∧ ready.block.ampV = true ∧
    ((-1 : Int) = -1 ∨ (-1 : Int) = 0 ∨ (-1 : Int) = 1) ∧ State.reset.block.ampV = false ∧
    ¬((2 : Int) = -1 ∨ (2 : Int) = 0 ∨ (2 : Int) = 1) := by decide
theorem witness_ModBpskIsModAsk : ready.block.fault = .noFault ∧ ready.block.ampV = true ∧
    ((0 : Int) = -1 ∨ (0 : Int) = 0 ∨ (0 : Int) = 1) := by decide
theorem witness_ModulatorNeverOverflows : (st true 32767 true .noFault).block.Inv ∧ (st true 32767 true .noFault).block.ampV = true ∧
    (st true 32767 true .noFault).block.fault = .noFault ∧ 4 ≤ 16 := by decide
theorem witness_ModCommandsComputeModulate :
    ∃ s : State, s.block.fault = .noFault ∧ 1 ≤ Config.smax 16 ∧ Config.smax 16 ≤ Config.smax Config.W ∧
      (∀ x ∈ [(1 : Int), 0, -1], x = -1 ∨ x = 0 ∨ x = 1) ∧
      s.inputs = .command Config.W (.setamp (Config.smax 16)) :: commandsOf 16 (modOf .ask) [1, 0, -1] ++ [] :=
  ⟨{ State.reset with inputs := .command Config.W (.setamp (Config.smax 16)) :: commandsOf 16 (modOf .ask) [1, 0, -1] ++ [] },
    rfl, by decide, by decide, by decide, rfl⟩
theorem witness_withoutSetamp :
    ∃ s s' s'' : State, ready.block.fault = .noFault ∧ ready.block.ampV = true ∧ signedW ready.block.amp = 1000 ∧
      s.block = ready.block ∧ s.inputs = commandsOf 16 (modOf .bpsk) [1, -1] ++ [] ∧ s'.block = ready.block ∧
      s'.inputs = commandsOf 16 .demAsk [501] ++ [] ∧ s''.block = ready.block ∧ s''.inputs = commandsOf 16 .demBpsk [-1] ++ [] :=
  ⟨{ ready with inputs := commandsOf 16 (modOf .bpsk) [1, -1] ++ [] }, { ready with inputs := commandsOf 16 .demAsk [501] ++ [] },
    { ready with inputs := commandsOf 16 .demBpsk [-1] ++ [] }, rfl, rfl, by decide, rfl, rfl, rfl, rfl, rfl, rfl⟩
theorem witness_DemAskDecidesByTheQuotient : (st false 1 true .noFault).Inv ∧ (st false 1 true .noFault).block.ampV = true ∧
    (st false 1 true .noFault).block.fault = .noFault ∧ State.reset.block.ampV = false := by decide
theorem witness_DemBpskDecidesByTheQuotient : ready.Inv ∧ ready.block.ampV = true ∧ ready.block.fault = .noFault ∧
    State.reset.block.ampV = false := by decide
theorem witness_ThresholdsNeedNoDivision : (0 : Int) < 1 ∧ 4 ≤ 4 := by decide
theorem witness_SlicersAreScaleInvariant : (1 : Int) ≤ 1 := by decide
theorem witness_SlicersInvertTheModulator_functions : 1 ≤ (1 : Int) ∧ ((-1 : Int) = -1 ∨ (-1 : Int) = 0 ∨ (-1 : Int) = 1) ∧
    (-1 : Int) ≠ 0 := by decide
theorem witness_SlicersInvertTheModulator :
    ∃ t r, ready.block.fault = .noFault ∧ ready.Inv ∧ ready.block.ampV = true ∧ ((-1 : Int) = -1 ∨ (-1 : Int) = 0 ∨ (-1 : Int) = 1) ∧
      exec (.modAsk (-1)) ready = .next t ∧ exec (.modBpsk (-1)) ready = .next t ∧ t.rsp = some r :=
  ⟨_, _, rfl, by decide, rfl, by decide, rfl, rfl, rfl⟩
theorem witness_DemCommandsComputeDemodulate :
    ∃ s s' : State, s.block.fault = .noFault ∧ s'.block.fault = .noFault ∧ 1 ≤ (1000 : Int) ∧ 1000 ≤ Config.smax Config.W ∧
      (∀ r ∈ [(-32768 : Int), 500, 32767], Config.smin Config.W ≤ r ∧ r ≤ Config.smax Config.W) ∧
      s.inputs = .command Config.W (.setamp 1000) :: commandsOf 16 .demAsk [-32768, 500, 32767] ++ [] ∧
      s'.inputs = .command Config.W (.setamp 1000) :: commandsOf 16 .demBpsk [-32768, 500, 32767] ++ [] :=
  ⟨{ State.reset with inputs := .command Config.W (.setamp 1000) :: commandsOf 16 .demAsk [-32768, 500, 32767] ++ [] },
    { State.reset with inputs := .command Config.W (.setamp 1000) :: commandsOf 16 .demBpsk [-32768, 500, 32767] ++ [] },
    rfl, rfl, by decide, by decide, by decide, rfl, rfl⟩
theorem witness_DecodesASymbol : State.reset.block.fault = .noFault ∧ ¬((-2 : Int) = -1 ∨ (-2 : Int) = 0 ∨ (-2 : Int) = 1) := by decide
theorem witness_DecCommandsComputeDecode :
    ∃ s s' : State, s.block.fault = .noFault ∧ s'.block.fault = .noFault ∧ (∀ x ∈ [(1 : Int), 0, -1], x = -1 ∨ x = 0 ∨ x = 1) ∧
      s.inputs = commandsOf 16 .decAmi [1, 0, -1] ++ [] ∧ s'.inputs = commandsOf 16 .decNrz [1, 0, -1] ++ [] :=
  ⟨{ ready with inputs := commandsOf 16 .decAmi [1, 0, -1] ++ [] }, { ready with inputs := commandsOf 16 .decNrz [1, 0, -1] ++ [] },
    rfl, rfl, by decide, rfl, rfl⟩
theorem witness_DecodersRecoverTheBits : ∀ b ∈ [(0 : Int), 1], b = 0 ∨ b = 1 := by decide
theorem witness_BlockRoundTripIsExact : 1 ≤ (32767 : Int) ∧ 32767 ≤ Config.smax Config.W ∧ ready.block.fault = .noFault ∧ ready.Inv ∧ ready.block.ampV = true ∧
    (∀ b ∈ [(1 : Int), 0, 1], b = 0 ∨ b = 1) := by decide
theorem witness_UnrecognisedSelectorFaults :
    ∃ s : State, s.block.fault = .noFault ∧ s.inputs = .word (w := 16) 0x120005#21 :: [] ∧
      (opcField (w := 16) 0x120005#21).getLsbD 4 = true ∧ (opcField (w := 16) 0x120005#21).getLsbD 1 = true :=
  ⟨{ ready with inputs := [.word (w := 16) 0x120005#21] }, rfl, rfl, by decide, by decide⟩
theorem witness_ReservedControlFaults :
    ∃ s s' : State, s.block.fault = .noFault ∧ s'.block.fault = .noFault ∧ s.inputs = .word (w := 16) 0x040000#21 :: [] ∧
      s'.inputs = .word (w := 16) 0x0FFFFF#21 :: [] ∧ 0x04 ≤ (opcField (w := 16) 0x040000#21).toNat ∧
      (opcField (w := 16) 0x0FFFFF#21).toNat ≤ 0x0F :=
  ⟨{ ready with inputs := [.word (w := 16) 0x040000#21] }, { ready with inputs := [.word (w := 16) 0x0FFFFF#21] },
    rfl, rfl, rfl, rfl, by decide, by decide⟩
theorem witness_FaultTableIsComplete : ready.block.fault = .noFault ∧ causeRaised ready.block (.modAsk 1) = .noFault ∧
    causeRaised ready.block (.modAsk 2) ≠ .noFault := by decide
theorem witness_OperandDomainsDecideFaults :
    ∃ t t', (Instr.modAsk 1).wellFormed Config.W = true ∧ ready.block.fault = .noFault ∧
      (Instr.modAsk 1).row.mnemonic ∉ ["RSV.SEL", "RSV.CTL.4_7", "RSV.CTL.8_15"] ∧ exec (.modAsk 1) ready = .next t ∧
      t.block.fault = .noFault ∧ exec (.modAsk 2) ready = .next t' ∧ t'.block.fault ≠ .noFault :=
  ⟨_, _, by decide, rfl, by decide, rfl, by decide, rfl, by decide⟩
theorem witness_FaultedBlockRefusesEveryCommand : (st true 5 true .invalidParameter).block.fault ≠ .noFault ∧
    (∀ data, Instr.nop 0 ≠ .rdstat data) ∧ (∃ data, Instr.rdstat 0 = .rdstat data) := ⟨by decide, by simp, 0, rfl⟩
theorem witness_FirstFaultStaysUntilReset :
    ∃ s t : State, s.block.fault ≠ .noFault ∧ (∀ p ∈ s.inputs.take 1, p.rst = false) ∧ Host.Core.run core 1 s = .next t :=
  ⟨{ st true 5 true .illegalCommand with inputs := [.command 16 (.setamp 9)] }, _, by decide, by decide, rfl⟩
theorem witness_FaultedBlockRefusesEveryCommand_runs :
    ∃ t t', (∀ p ∈ (shown (.encAmi 1)).inputs.take 1, p.rst = false) ∧ (∀ p ∈ (shown (.encAmi 2)).inputs.take 1, p.rst = false) ∧
      Host.Core.run core 1 (shown (.encAmi 1)) = .next t ∧ t.block.fault = .noFault ∧
      Host.Core.run core 1 (shown (.encAmi 2)) = .next t' ∧ t'.block.fault ≠ .noFault :=
  ⟨_, _, by decide, by decide, rfl, by decide, rfl, by decide⟩
theorem witness_ErrIsTheFaultField : ∃ t r, exec (.modAsk 2) ready = .next t ∧ t.rsp = some r ∧ r.err ≠ .noFault ∧
    (∀ data, Instr.modAsk 2 ≠ .rdstat data) := ⟨_, _, rfl, rfl, by decide, by simp⟩
theorem witness_ResultsAreOfTheirClass : ∃ t data, ready.Inv ∧ exec (.modAsk (-1)) ready = .next t ∧ t.rsp = some ⟨.noFault, data⟩ :=
  ⟨_, tcW 16 (modulateSymbol (-1) ready.block.amplitude), by decide, rfl, rfl⟩
theorem witness_ReadingCommandsKeepTheBlock : writesNothing (.demAsk 32767) = true ∧ ready.block.fault = .noFault ∧
    causeRaised ready.block (.demAsk 32767) = .noFault := by decide
theorem witness_WritingCommandsKeepTheRest :
    ∃ t t' t'', exec (.setamp 7) ready = .next t ∧ exec (.newseq 0) ready = .next t' ∧ exec (.encAmi 1) ready = .next t'' :=
  ⟨_, _, _, rfl, rfl, rfl⟩
theorem witness_OnlyEncAmiAndNewseqTouchTheParity :
    ∃ t, exec (.encAmi 1) ready = .next t ∧ t.block.amiPar ≠ ready.block.amiPar := ⟨_, rfl, by decide⟩
theorem witness_StepKeepsInv : ∃ t, (shown (.setamp 32767)).Inv ∧ step (shown (.setamp 32767)) = .next t ∧
    Config.ValidWidth 4 ∧ (State.resetAt 4).Inv ∧ stepAt (State.resetAt 4) = .next (State.resetAt 4) :=
  ⟨_, by decide, rfl, by decide, by decide, rfl⟩
theorem witness_InstancesDoNotInteract : ∃ sys' : List State, runSchedule [1, 0, 1] [ready, shown (.encAmi 1)] = .next sys' := ⟨_, rfl⟩
theorem witness_TextCodecRoundTrip : (∀ c ∈ ['H', 'ÿ'], c.toNat ≤ 255) ∧ (∃ c ∈ ['H', 'Ā'], 255 < c.toNat) ∧
    ['H', 'ÿ'][1]? = some 'ÿ' ∧ 7 < 8 ∧ (∀ b ∈ [(1 : Int), 0], b = 0 ∨ b = 1) := by simp
theorem witness_BerIsWithinBounds : [(1 : Int), 0].length = [(0 : Int), 1].length ∧ [(1 : Int), 0] ≠ [] := by decide
theorem witness_NoiseFreeRunRecoversTheText :
    ∃ quantise : ℝ → Sample 16, (∀ v : Sample 16, quantise v.val = v) ∧ (∀ c ∈ ['H', 'i'], c.toNat ≤ 255) ∧ 1 ≤ (256 : Int) ∧
      256 ≤ Config.smax 16 ∧ (0b01#2 = 0b00#2 ∨ 0b01#2 = 0b01#2) := by
  refine ⟨fun x => ⟨max (Config.smin 16) (min (Config.smax 16) ⌊x⌋), le_max_left _ _, max_le (by decide) (min_le_left _ _)⟩,
    fun v => Subtype.ext ?_, by simp, by decide, by decide, by decide⟩
  simp only [Int.floor_intCast, min_eq_right v.2.2, max_eq_right v.2.1]
theorem witness_StagesMayBeInterleaved : Config.ValidWidth 4 ∧ (∀ b ∈ [(1 : Int), 0], b = 0 ∨ b = 1) ∧
    (Config.smin 4 ≤ (7 : Int) ∧ (7 : Int) ≤ Config.smax 4) ∧ (st true 5 true .illegalCommand).block.fault ≠ .noFault := by decide
theorem witness_TheMachineIsTheOneOfItsWidth :
    (∃ p rest, ({ State.resetAt 4 with inputs := [⟨true, true, 0⟩] } : State 4).inputs = p :: rest ∧ p.rst = true) ∧
    (∃ p rest, ({ State.resetAt 4 with inputs := [.nothing 4] } : State 4).inputs = p :: rest ∧ p.rst = false ∧ p.cmdValid = false) ∧
    (∃ p rest, ({ State.resetAt 4 with inputs := [.command 4 (.encAmi 1)] } : State 4).inputs = p :: rest ∧ p.rst = false ∧
      p.cmdValid = true) ∧ Config.ValidWidth 4 :=
  ⟨⟨_, _, rfl, rfl⟩, ⟨_, _, rfl, rfl, rfl⟩, ⟨_, _, rfl, rfl, rfl⟩, by decide⟩
theorem witness_HostRunReportsTheErrors : (0b10#2 = 0b10#2 ∨ 0b10#2 = 0b11#2) ∧ (0b01#2 = 0b00#2 ∨ 0b01#2 = 0b01#2) ∧
    (∃ c ∈ ['Ā'], 255 < c.toNat) ∧ (∀ c ∈ ['ÿ'], c.toNat ≤ 255) ∧
    Config.smin Config.W ≤ (-32768 : Int) ∧ (-32768 : Int) ≤ 0 := ⟨by decide, by decide, by simp, by simp, by decide, by decide⟩

end Sys2Proof.Machine.Tests
end

section
/-! The step of a machine of any width, one equation per kind of cycle. -/

namespace Sys2Proof.Machine

section

variable {w : Nat} {s : State w}

/-! ### By the cycle the block sees -/

theorem stepAt_of_reset (h : s.cycle = .reset) : stepAt s = .next s.nextCycle.resetCycle := by
  rw [stepAt, State.cycleWith, h]

theorem stepAt_of_idle (h : s.cycle = .idle) : stepAt s = .next s.nextCycle.idleCycle := by
  rw [stepAt, State.cycleWith, h]

theorem stepAt_of_command {cmd : CmdWord w} (h : s.cycle = .command cmd) :
    stepAt s =
      .next { block := (s.block.step cmd).1, inputs := s.inputs.tail, rsp := some (s.block.step cmd).2 } := by
  rw [stepAt, State.cycleWith, h]
  rfl

/-! ### By the input pins -/

variable {p : PortIn w} {rest : List (PortIn w)}

/-- R150, R151: reset wins whatever else the pins show. -/
theorem stepAt_of_rst (h : s.inputs = p :: rest) (hr : p.rst = true) :
    stepAt s = .next { block := Block.reset w, inputs := rest, rsp := none } := by
  have hc : s.cycle = .reset := (State.cycle_cons h).trans (PortIn.cycle_of_rst hr)
  rw [stepAt_of_reset hc, State.resetCycle, State.nextCycle, h, List.tail_cons]

/-- R153. -/
theorem stepAt_of_no_command (h : s.inputs = p :: rest) (hr : p.rst = false) (hv : p.cmdValid = false) :
    stepAt s = .next { block := s.block, inputs := rest, rsp := none } := by
  have hc : s.cycle = .idle := (State.cycle_cons h).trans (PortIn.cycle_of_idle hr hv)
  rw [stepAt_of_idle hc, State.idleCycle, State.nextCycle, h, List.tail_cons]

/-- R60, R150. -/
theorem stepAt_of_cmdValid (h : s.inputs = p :: rest) (hr : p.rst = false) (hv : p.cmdValid = true) :
    stepAt s =
      .next { block := (s.block.step p.cmd).1, inputs := rest, rsp := some (s.block.step p.cmd).2 } := by
  have hc : s.cycle = .command p.cmd := (State.cycle_cons h).trans (PortIn.cycle_of_command hr hv)
  rw [stepAt_of_command hc, h, List.tail_cons]

end

/-- Settles O60: the equalities at `Config.W` are the model's laws, and each kind of cycle has its equation at every width. -/
theorem theMachineIsTheOneOfItsWidth : Obligations.TheMachineIsTheOneOfItsWidth := by
  refine ⟨fun _ => core_eq_coreAt, Config.validWidth_W, fun i s => ?_, fun s => ?_, rfl,
    fun w s p rest _ hin => ⟨fun hr => ?_, fun hr hv => ?_, fun hr hv => ?_⟩⟩
  · rw [exec_eq_execAt]
  · rw [step_eq_stepAt]
  · exact stepAt_of_rst hin hr
  · exact stepAt_of_no_command hin hr hv
  · exact stepAt_of_cmdValid hin hr hv

end Sys2Proof.Machine
end

section
/-! What a command does to a block of any width, said once: a faulted block refuses it; else it raises the cause of the table of
R131, or it executes, and then writes `Block.written` and answers `Block.result`. -/

namespace Sys2Proof.Machine

variable {w : Nat} {b : Block w}

/-- What the command writes when it executes: SETAMP the amplitude, NEWSEQ and ENC.AMI the parity, the others nothing (R17, R33). -/
def Block.written (b : Block w) : Instr → Block w
  | .setamp a => b.setAmp (tcW w a)
  | .newseq _ => b.setAmiPar false
  | .encAmi bit => b.setAmiPar (ami b.amiPar bit).2
  | .nop _ | .rdstat _ | .encNrz _ | .modAsk _ | .modBpsk _ | .demAsk _ | .demBpsk _
  | .decAmi _ | .decNrz _ | .rsvSel _ _ _ | .rsvCtl4to7 _ _ | .rsvCtl8to15 _ _ => b

/-- The DATA the command answers when it executes (R50); the reserved rows never do (R45, R46). -/
def Block.result (b : Block w) : Instr → BitVec w
  | .rdstat _ => b.status
  | .encAmi bit => tcW w (ami b.amiPar bit).1
  | .encNrz bit => tcW w (nrz bit)
  | .modAsk sym | .modBpsk sym => tcW w (modulateSymbol sym b.amplitude)
  | .demAsk r => tcW w (sliceAsk r b.amplitude)
  | .demBpsk r => tcW w (sliceBpsk r b.amplitude)
  | .decAmi sym => tcW w (decAmiBit sym)
  | .decNrz sym => tcW w (decNrzBit sym)
  | .nop _ | .setamp _ | .newseq _ | .rsvSel _ _ _ | .rsvCtl4to7 _ _ | .rsvCtl8to15 _ _ => 0#w

theorem Block.written_of_writesNothing {i : Instr} (h : writesNothing i = true) : b.written i = b := by
  cases i with
  | setamp _ | newseq _ | encAmi _ => cases h
  | _ => rfl

/-- A command executes when its check holds, and raises its cause when it does not. -/
theorem Block.checked_eq_of_cause {ok : Bool} {c : Cause} (hc : c = if ok then .noFault else .invalidParameter)
    (body : Result w) : b.checked ok body = if c = .noFault then body else b.raise c := by
  subst hc
  cases ok <;> rfl

/-! The rows of R131 in the form of the checks the commands make. -/

theorem isBit_cause (v : Int) :
    (if v = 0 ∨ v = 1 then Cause.noFault else .invalidParameter) = if isBit v then .noFault else .invalidParameter := by
  simp only [isBit_iff]

theorem isSym_cause (v : Int) :
    (if v = -1 ∨ v = 0 ∨ v = 1 then Cause.noFault else .invalidParameter) =
      if isSym v then .noFault else .invalidParameter := by
  simp only [isSym_iff]

theorem ampV_cause (v : Bool) :
    (if v = false then Cause.invalidParameter else .noFault) = if v then .noFault else .invalidParameter := by
  cases v <;> rfl

theorem ampV_isSym_cause (v : Bool) (sym : Int) :
    (if v = false ∨ ¬(sym = -1 ∨ sym = 0 ∨ sym = 1) then Cause.invalidParameter else .noFault) =
      if v && isSym sym then .noFault else .invalidParameter := by
  simp only [← isSym_iff]
  cases v <;> cases isSym sym <;> rfl

/-- R60, R131, R135: the whole of a command in a block without a fault. -/
theorem command_of_noFault (h : b.fault = .noFault) (i : Instr) :
    b.command i =
      if causeRaised b i = .noFault then (b.written i).respond (b.result i) else b.raise (causeRaised b i) := by
  have hok := Block.unlessFaulted_of_ok h
  cases i with
  | nop _ | newseq _ | rsvSel _ _ _ | rsvCtl4to7 _ _ | rsvCtl8to15 _ _ => exact hok _
  | rdstat _ => exact congrArg (fun c => (b, (⟨c, b.status⟩ : Response w))) h
  | setamp a =>
    refine (hok _).trans ?_
    by_cases ha : a ≤ 0 <;> simp [causeRaised, ha, Block.written, Block.result]
  | encAmi bit | encNrz bit => exact (hok _).trans (Block.checked_eq_of_cause (isBit_cause bit) _)
  | modAsk sym | modBpsk sym => exact (hok _).trans (Block.checked_eq_of_cause (ampV_isSym_cause b.ampV sym) _)
  | demAsk _ | demBpsk _ => exact (hok _).trans (Block.checked_eq_of_cause (ampV_cause b.ampV) _)
  | decAmi sym | decNrz sym => exact (hok _).trans (Block.checked_eq_of_cause (isSym_cause sym) _)

theorem command_of_executes (h : b.fault = .noFault) {i : Instr} (hc : causeRaised b i = .noFault) :
    b.command i = (b.written i).respond (b.result i) := by
  rw [command_of_noFault h, if_pos hc]

theorem command_of_cause (h : b.fault = .noFault) {i : Instr} (hc : causeRaised b i ≠ .noFault) :
    b.command i = b.raise (causeRaised b i) := by
  rw [command_of_noFault h, if_neg hc]

/-- The block after a command, by the ERR of the response: a command that executes writes `Block.written`; one that raises
a cause, or is refused, leaves FAULT at ERR and everything else as it was (R135, R136). -/
theorem command_cases (b : Block w) (i : Instr) :
    (b.fault = .noFault ∧ causeRaised b i = .noFault ∧ (b.command i).2.err = .noFault ∧ (b.command i).1 = b.written i) ∨
    ((b.command i).2.err ≠ .noFault ∧ (b.command i).1 = b.setFault (b.command i).2.err) := by
  by_cases h : b.fault = .noFault
  · by_cases hc : causeRaised b i = .noFault
    · rw [command_of_executes h hc]
      exact .inl ⟨h, hc, rfl, rfl⟩
    · rw [command_of_cause h hc]
      exact .inr ⟨hc, rfl⟩
  · obtain ⟨hb, herr⟩ := command_of_faulted h i
    rw [hb, herr]
    exact .inr ⟨h, rfl⟩

end Sys2Proof.Machine
end

section
/-! Commands and the words that present them, at every width: the operand of a decoded word, and the round trip of R44 to R46. -/

namespace Sys2Proof

variable {w : Nat}

/-- R43: the integer a decoded command carries is `signed_W(DATA)`. -/
theorem decodeOpc_operand (opc : BitVec 5) (dv : Int) : (decodeOpc opc dv).operand = dv := by
  unfold decodeOpc
  split
  · unfold decodeControl
    split
    iterate 4 rfl
    split <;> rfl
  · unfold decodeDatapath
    split <;> rfl

theorem decode_operand (cmd : CmdWord w) : (decode cmd).operand = signedW (dataField cmd) :=
  decodeOpc_operand _ _

/-- The operand of a decoded word is the value of a DATA field. -/
theorem dataFits_decode_operand (hw : 0 < w) (cmd : CmdWord w) : dataFits w (decode cmd).operand = true := by
  rw [decode_operand]
  exact dataFits_signedW hw _

theorem dataFits_operand_of_wellFormed {i : Instr} (h : i.wellFormed w = true) : dataFits w i.operand = true := by
  cases i with
  | rsvSel _ _ _ | rsvCtl4to7 _ _ | rsvCtl8to15 _ _ => exact (Bool.and_eq_true_iff.mp h).2
  | _ => exact h

/-! The decoder by the fields of the OPC (R41), and the two reserved families (R45, R46). -/

theorem fields_control : ∀ func : BitVec 4, kField (0#1 ++ func) = 0#1 ∧ funcField (0#1 ++ func) = func := by decide

theorem fields_datapath : ∀ unit sel : BitVec 2, kField (1#1 ++ unit ++ sel) = 1#1 ∧
    unitField (1#1 ++ unit ++ sel) = unit ∧ selField (1#1 ++ unit ++ sel) = sel := by decide

theorem decodeOpc_control (func : BitVec 4) (dv : Int) : decodeOpc (0#1 ++ func) dv = decodeControl func dv := by
  obtain ⟨hk, hfunc⟩ := fields_control func
  rw [decodeOpc, if_pos hk, hfunc]

theorem decodeOpc_datapath (unit sel : BitVec 2) (dv : Int) :
    decodeOpc (1#1 ++ unit ++ sel) dv = decodeDatapath unit sel dv := by
  obtain ⟨hk, hunit, hsel⟩ := fields_datapath unit sel
  rw [decodeOpc, if_neg (by rw [hk]; decide), hunit, hsel]

theorem decodeControl_reserved {func : BitVec 4} (h : 4 ≤ func.toNat) (dv : Int) :
    decodeControl func dv = if func.toNat < 8 then .rsvCtl4to7 func dv else .rsvCtl8to15 func dv := by
  unfold decodeControl
  split
  iterate 4 exact absurd h (by decide)
  rfl

theorem decodeDatapath_unrecognised {sel : BitVec 2} (h : selUnrecognised sel = true) (unit : BitVec 2) (dv : Int) :
    decodeDatapath unit sel dv = .rsvSel unit sel dv := by
  have hroute : routeOfSel sel = none := by revert sel; decide
  simp only [decodeDatapath, hroute]

/-- The OPC of a command of the block decodes to that command (R44 to R46). -/
theorem decodeOpc_opcode {i : Instr} (h : i.wellFormed w = true) : decodeOpc i.opcode i.operand = i := by
  cases i with
  | nop data => exact decodeOpc_control 0 data
  | setamp a => exact decodeOpc_control 1 a
  | newseq data => exact decodeOpc_control 2 data
  | rdstat data => exact decodeOpc_control 3 data
  | encAmi b => exact decodeOpc_datapath 0 0 b
  | encNrz b => exact decodeOpc_datapath 0 1 b
  | modAsk sym => exact decodeOpc_datapath 1 0 sym
  | modBpsk sym => exact decodeOpc_datapath 1 1 sym
  | demAsk r => exact decodeOpc_datapath 2 0 r
  | demBpsk r => exact decodeOpc_datapath 2 1 r
  | decAmi sym => exact decodeOpc_datapath 3 0 sym
  | decNrz sym => exact decodeOpc_datapath 3 1 sym
  | rsvSel unit sel data =>
    have hsel := (Bool.and_eq_true_iff.mp h).1
    exact (decodeOpc_datapath unit sel data).trans (decodeDatapath_unrecognised hsel unit data)
  | rsvCtl4to7 func data =>
    simp only [Instr.wellFormed, Bool.and_eq_true, decide_eq_true_eq] at h
    obtain ⟨⟨hlow, hhigh⟩, -⟩ := h
    exact (decodeOpc_control func data).trans ((decodeControl_reserved hlow data).trans (if_pos hhigh))
  | rsvCtl8to15 func data =>
    simp only [Instr.wellFormed, Bool.and_eq_true, decide_eq_true_eq] at h
    obtain ⟨hlow, -⟩ := h
    exact (decodeOpc_control func data).trans ((decodeControl_reserved (by omega) data).trans (if_neg (by omega)))

theorem decode_encode (hw : 0 < w) {i : Instr} (h : i.wellFormed w = true) : decode (encode w i) = i := by
  rw [decode, opcField_encode, dataField_encode, signedW_tcW hw (dataFits_operand_of_wellFormed h), decodeOpc_opcode h]

/-- Every block has room for the bits 0 and 1 (R4). -/
theorem dataFits_bit (hw : Config.ValidWidth w) {v : Int} (h : v = 0 ∨ v = 1) : dataFits w v = true := by
  have hpow : 2 ^ 3 ≤ 2 ^ (w - 1) := Nat.pow_le_pow_right (by decide) (by omega)
  rw [dataFits_iff, Config.smin, Config.smax]
  omega

end Sys2Proof

namespace Sys2Proof.Machine

variable {w : Nat}

/-- A command of the block, presented, is the one that runs (R40, R60). -/
theorem stepAt_of_presented (hw : 0 < w) {i : Instr} (hi : i.wellFormed w = true) {s : State w} {rest : List (PortIn w)}
    (h : s.inputs = .command w i :: rest) :
    stepAt s = .next { block := (s.block.command i).1, inputs := rest, rsp := some (s.block.command i).2 } := by
  rw [stepAt_word h, Block.step, decode_encode hw hi]

/-- The block after a list of commands. -/
def Block.runCommands (b : Block w) (commands : List Instr) : Block w :=
  commands.foldl (fun b i => (b.command i).1) b

theorem Block.runCommands_of_executes {b : Block w} {i : Instr} (h : b.fault = .noFault)
    (hc : causeRaised b i = .noFault) : b.runCommands [i] = b.written i := congrArg Prod.fst (command_of_executes h hc)

theorem Block.runCommands_of_cause {b : Block w} {i : Instr} (h : b.fault = .noFault)
    (hc : causeRaised b i ≠ .noFault) : b.runCommands [i] = b.setFault (causeRaised b i) :=
  congrArg Prod.fst (command_of_cause h hc)

theorem Block.runCommands_append (b : Block w) (xs ys : List Instr) :
    b.runCommands (xs ++ ys) = (b.runCommands xs).runCommands ys := List.foldl_append

/-- Presenting commands one a cycle runs them on the block in order (R2, R60). -/
theorem run_presented (hw : Config.ValidWidth w) {commands : List Instr} {rest : List (PortIn w)} {s : State w}
    (hcs : ∀ i ∈ commands, i.wellFormed w = true) (h : s.inputs = commands.map (.command w) ++ rest) :
    ∃ t : State w, Host.Core.run (coreAt w hw) commands.length s = .next t ∧
      t.block = s.block.runCommands commands ∧ t.inputs = rest := by
  induction commands generalizing s with
  | nil => exact ⟨s, rfl, rfl, h⟩
  | cons i more ih =>
    obtain ⟨hi, hmore⟩ := List.forall_mem_cons.mp hcs
    have hs := stepAt_of_presented (by omega) hi h
    obtain ⟨t, hrun, hblock, hrest⟩ := ih hmore (s := ⟨(s.block.command i).1, _, some (s.block.command i).2⟩) rfl
    exact ⟨t, (runAt_succ hs _).trans hrun, hblock, hrest⟩

/-- A run of the host's machine is a run of the general one at the spec's width (R4). -/
theorem run_core_eq (k : Nat) (s : State) :
    Host.Core.run core k s = Host.Core.run (coreAt Config.W Config.validWidth_W) k s := by
  induction k generalizing s with
  | zero => rfl
  | succ k ih =>
    obtain ⟨t, ht⟩ := stepAt_total s
    have hstep : step s = .next t := step_eq_stepAt ▸ ht
    exact (run_succ hstep k).trans ((ih t).trans (runAt_succ ht k).symm)

/-- What every step of a machine keeps, every run of it keeps. -/
theorem run_preserves (M : Host.Core) {P : M.State → Prop} (hP : ∀ s t, P s → M.step s = .next t → P t) {k : Nat}
    {s t : M.State} (hs : P s) (h : M.run k s = .next t) : P t := by
  induction k generalizing s with
  | zero => cases h; exact hs
  | succ k ih =>
    rw [Host.Core.run] at h
    split at h
    · next s' hstep => exact ih (hP s s' hs hstep) h
    · cases h
    · cases h

end Sys2Proof.Machine
end

section
/-! AMI_PAR along a run (R11). -/

namespace Sys2Proof.Machine

variable {w : Nat}

/-- AMI_PAR is the parity of the count `n`. -/
abbrev Block.HasParityOf (b : Block w) (n : Nat) : Prop := b.amiPar = true ↔ n % 2 = 1

/-- R71: a 1-bit toggles the parity, any other leaves it. -/
theorem written_hasParityOf {b : Block w} {n : Nat} (h : b.HasParityOf n) {i : Instr} (hc : causeRaised b i = .noFault) :
    (b.written i).HasParityOf (onesCounted n i) := by
  cases i with
  | newseq _ => simp [Block.HasParityOf, Block.written, onesCounted]
  | encAmi bit =>
    have hbit : bit = 0 ∨ bit = 1 := by
      by_contra hbit
      simp [causeRaised, hbit] at hc
    obtain rfl | rfl := hbit
    · exact h
    · cases hp : b.amiPar <;> simp [Block.HasParityOf, Block.written, onesCounted, ami, hp] at h ⊢ <;> omega
  | _ => exact h

/-- R11: one command. -/
theorem command_hasParityOf {b : Block w} {n : Nat} (h : b.HasParityOf n) (i : Instr) :
    (b.command i).1.HasParityOf (if (b.command i).2.err = .noFault then onesCounted n i else n) := by
  obtain ⟨-, hc, herr, hb⟩ | ⟨herr, hb⟩ := command_cases b i
  · rw [hb, if_pos herr]
    exact written_hasParityOf h hc
  · rw [hb, if_neg herr]
    exact h

/-- R11: one cycle. -/
theorem stepAt_hasParityOf {s t : State w} {n : Nat} (h : s.block.HasParityOf n) (hs : stepAt s = .next t) :
    t.block.HasParityOf (onesAfter n s.cycle t.rsp) := by
  obtain ⟨hc, rfl⟩ | ⟨hc, rfl⟩ | ⟨cmd, hc, rfl⟩ := stepAt_cases hs <;> rw [hc]
  · simp [Block.HasParityOf, onesAfter]
  · exact h
  · exact command_hasParityOf h (decode cmd)

theorem onesAfterRun_succ {s t : State w} (h : stepAt s = .next t) (k n : Nat) :
    onesAfterRun (k + 1) n s = onesAfterRun k (onesAfter n s.cycle t.rsp) t := by
  rw [onesAfterRun, h]

/-- R11: a run of the machine of any width. -/
theorem run_hasParityOf (hw : Config.ValidWidth w) {k n : Nat} {s t : State w} (h : s.block.HasParityOf n)
    (hrun : Host.Core.run (coreAt w hw) k s = .next t) : t.block.HasParityOf (onesAfterRun k n s) := by
  induction k generalizing n s with
  | zero => cases hrun; exact h
  | succ k ih =>
    obtain ⟨s', hs⟩ := stepAt_total s
    rw [onesAfterRun_succ hs]
    exact ih (stepAt_hasParityOf h hs) ((runAt_succ hs k).symm.trans hrun)

/-- R71: the sign of a 1-bit. -/
theorem result_encAmi_one (b : Block w) : b.result (.encAmi 1) = tcW w (if b.amiPar = false then 1 else -1) := by
  rw [Block.result]
  cases b.amiPar <;> rfl

/-- Settles O24: by induction over the run, each cycle keeping AMI_PAR the parity of the count. -/
theorem amiParCountsExecutedOnes : Obligations.AmiParCountsExecutedOnes := by
  refine ⟨fun k n s t h hrun => ?_, fun w hw k n s t h hrun => run_hasParityOf hw h hrun, fun s h => ?_⟩
  · exact run_hasParityOf Config.validWidth_W h ((run_core_eq k s).symm.trans hrun)
  · refine ⟨_, exec_is_command _ _, ?_⟩
    rw [command_of_executes h rfl, result_encAmi_one]
    rfl

end Sys2Proof.Machine
end

section
/-! The invariant of R12 and R23, kept by every step. -/

namespace Sys2Proof.Machine

variable {w : Nat} {b : Block w}

theorem Block.reset_inv : (Block.reset w).Inv := .inl ⟨rfl, rfl⟩

/-- R62: SETAMP alone writes AMP, and only a positive value of its DATA field. -/
theorem written_inv (hw : 0 < w) (hb : b.Inv) {i : Instr} (hi : dataFits w i.operand = true)
    (hc : causeRaised b i = .noFault) : (b.written i).Inv := by
  cases i with
  | setamp a =>
    have ha : 1 ≤ a := by
      by_contra ha
      simp [causeRaised, show a ≤ 0 by omega] at hc
    have hval : signedW (tcW w a) = a := signedW_tcW hw hi
    refine .inr ⟨rfl, ?_⟩
    rw [Block.written, Block.setAmp_amplitude, hval]
    exact ⟨ha, ((dataFits_iff a).mp hi).2⟩
  | _ => exact hb

theorem command_inv (hw : 0 < w) (hb : b.Inv) {i : Instr} (hi : dataFits w i.operand = true) : (b.command i).1.Inv := by
  obtain ⟨-, hc, -, heq⟩ | ⟨-, heq⟩ := command_cases b i <;> rw [heq]
  · exact written_inv hw hb hi hc
  · exact hb

theorem stepAt_inv (hw : 0 < w) {s t : State w} (hs : s.Inv) (h : stepAt s = .next t) : t.Inv := by
  obtain ⟨-, rfl⟩ | ⟨-, rfl⟩ | ⟨cmd, -, rfl⟩ := stepAt_cases h
  · exact Block.reset_inv
  · exact hs
  · exact command_inv hw hs (dataFits_decode_operand hw cmd)

theorem step_inv (s t : State) (hs : s.Inv) (h : step s = .next t) : t.Inv :=
  stepAt_inv (by decide) hs (step_eq_stepAt ▸ h)

/-- Settles O52: resets and idle cycles keep the invariant, and so does what a command writes, since DATA fits. -/
theorem stepKeepsInv : Obligations.StepKeepsInv :=
  ⟨step_inv, fun w _ _ hw hs h => stepAt_inv (by omega) hs h⟩

/-- Settles O51: reset has no amplitude. -/
theorem resetMeetsInv : Obligations.ResetMeetsInv := Block.reset_inv

/-- The command that enters a fault from a block without one; none for NONE (R131). -/
def faultCommands : Cause → List Instr
  | .noFault => []
  | .invalidModulation => [.rsvSel 0 2 0]
  | .invalidParameter => [.setamp 0]
  | .illegalCommand => [.rsvCtl4to7 4 0]

/-- Commands that bring a block from reset to `b`, if `b` meets the invariant. -/
def Block.commandsTo (b : Block w) : List Instr :=
  (if b.ampV then [.setamp b.amplitude] else []) ++ (if b.amiPar then [.encAmi 1] else []) ++ faultCommands b.fault

theorem faultCommands_wellFormed (hw : Config.ValidWidth w) (c : Cause) :
    ∀ i ∈ faultCommands c, i.wellFormed w = true := by
  have hzero : dataFits w 0 = true := dataFits_bit hw (.inl rfl)
  cases c with
  | noFault => exact List.forall_mem_nil _
  | invalidParameter => exact List.forall_mem_singleton.mpr hzero
  | invalidModulation | illegalCommand =>
    refine List.forall_mem_singleton.mpr ?_
    rw [Instr.wellFormed, hzero]
    rfl

theorem commandsTo_wellFormed (hw : Config.ValidWidth w) (b : Block w) : ∀ i ∈ b.commandsTo, i.wellFormed w = true := by
  have hamp : (Instr.setamp b.amplitude).wellFormed w = true := dataFits_signedW (by omega) b.amp
  have hone : (Instr.encAmi 1).wellFormed w = true := dataFits_bit hw (.inr rfl)
  rw [Block.commandsTo, List.forall_mem_append, List.forall_mem_append]
  refine ⟨⟨?_, ?_⟩, faultCommands_wellFormed hw b.fault⟩
  · cases b.ampV <;> simp [hamp]
  · cases b.amiPar <;> simp [hone]

/-! The three parts of `Block.commandsTo`, each from where the one before it leads. -/

theorem runCommands_setamp (hb : b.Inv) :
    (Block.reset w).runCommands (if b.ampV then [.setamp b.amplitude] else []) =
      { b with amiPar := false, fault := .noFault } := by
  obtain ⟨hv, hamp⟩ | ⟨hv, hpos, -⟩ := hb <;> rw [hv]
  · exact hamp ▸ rfl
  · have hc : causeRaised (Block.reset w) (.setamp b.amplitude) = .noFault := if_neg (by omega)
    rw [if_pos rfl, Block.runCommands_of_executes rfl hc, Block.written, Block.amplitude, tcW_signedW]
    rfl

theorem runCommands_encAmi (h : b.fault = .noFault) (hp : b.amiPar = false) (p : Bool) :
    b.runCommands (if p then [.encAmi 1] else []) = b.setAmiPar p := by
  cases p with
  | false => exact congrArg b.setAmiPar hp
  | true =>
    rw [if_pos rfl, Block.runCommands_of_executes h rfl, Block.written, hp]
    rfl

theorem runCommands_faultCommands (h : b.fault = .noFault) (c : Cause) :
    b.runCommands (faultCommands c) = b.setFault c := by
  cases c with
  | noFault => exact congrArg b.setFault h
  | invalidModulation | invalidParameter | illegalCommand => exact Block.runCommands_of_cause h (by simp [causeRaised])

theorem runCommands_commandsTo (hb : b.Inv) : (Block.reset w).runCommands b.commandsTo = b := by
  rw [Block.commandsTo, Block.runCommands_append, Block.runCommands_append, runCommands_setamp hb,
    runCommands_encAmi rfl rfl, runCommands_faultCommands rfl]
  rfl

/-- Settles O53: the commands `Block.commandsTo` lead from reset to every block that meets the invariant, and no run leaves it. -/
theorem reachableBlocksAreExactlyInv : Obligations.ReachableBlocksAreExactlyInv := by
  refine fun b => ⟨fun hb => ?_, ?_⟩
  · obtain ⟨t, hrun, hblock, -⟩ := run_presented Config.validWidth_W (commandsTo_wellFormed Config.validWidth_W b)
      (s := { State.reset with inputs := b.commandsTo.map (.command Config.W) ++ [] }) rfl
    exact ⟨_, _, t, (run_core_eq _ _).trans hrun, hblock.trans (runCommands_commandsTo hb)⟩
  · rintro ⟨inputs, k, t, hrun, rfl⟩
    exact run_preserves core (P := State.Inv) step_inv (s := { State.reset with inputs := inputs }) resetMeetsInv hrun

end Sys2Proof.Machine
end

section
/-! STATUS, the reset values, and the frame of the commands that write nothing (R14, R17, R22, R33). -/

namespace Sys2Proof.Machine

variable {w : Nat}

/-! The bits of STATUS (R14). -/

theorem status_getLsbD_zero (hw : 0 < w) (b : Block w) : b.status.getLsbD 0 = b.amiPar := by
  simp [Block.status, hw]

theorem status_getLsbD_one (hw : 1 < w) (b : Block w) : b.status.getLsbD 1 = b.ampV := by
  simp [Block.status, hw]

theorem status_getLsbD_add_two (b : Block w) {j : Nat} (hj : j + 2 < w) :
    b.status.getLsbD (j + 2) = b.fault.code.getLsbD j := by
  simp [Block.status, hj]

theorem status_extract_fault (hw : Config.ValidWidth w) (b : Block w) :
    b.status.extractLsb' 2 2 = b.fault.code := by
  ext j hj
  rw [BitVec.getElem_extractLsb', Nat.add_comm, status_getLsbD_add_two b (by omega), BitVec.getLsbD_eq_getElem hj]

theorem status_getLsbD_of_ge (b : Block w) {j : Nat} (hj : 4 ≤ j) : b.status.getLsbD j = false := by
  obtain ⟨k, rfl⟩ := Nat.exists_eq_add_of_le' (show 2 ≤ j by omega)
  by_cases hk : k + 2 < w
  · rw [status_getLsbD_add_two b hk, BitVec.getLsbD_of_ge _ k (by omega)]
  · exact BitVec.getLsbD_of_ge _ _ (by omega)

theorem reset_status : (Block.reset w).status = 0#w := by
  simp [Block.status, Cause.code]

/-- R14: MOD.ASK +1 gives AMP back. -/
theorem result_modAsk_one (b : Block w) : b.result (.modAsk 1) = b.amp := by
  rw [Block.result, modulateSymbol, one_mul, Block.amplitude, tcW_signedW]

/-- Settles O16: bit by bit, and MOD.ASK +1 executes and multiplies AMP by 1. -/
theorem statusShowsTheFlags : Obligations.StatusShowsTheFlags := by
  refine ⟨fun data s => ⟨_, rfl, rfl, rfl⟩, fun w b hw => ?_, fun w b a => rfl, fun s h hv => ?_⟩
  · exact ⟨status_getLsbD_zero (by omega) b, status_getLsbD_one (by omega) b, status_extract_fault hw b,
      fun _ => status_getLsbD_of_ge b⟩
  · have hc : causeRaised s.block (.modAsk 1) = .noFault := by simp [causeRaised, hv]
    rw [exec_is_command, command_of_executes h hc, result_modAsk_one]
    rfl

/-- Settles O48: a command of this kind executes and writes nothing. -/
theorem readingCommandsKeepTheBlock : Obligations.ReadingCommandsKeepTheBlock := by
  intro i s hi h hc
  refine ⟨_, exec_is_command i s, ?_, rfl⟩
  rw [command_of_executes h hc]
  exact Block.written_of_writesNothing hi

/-- Settles O7: the reset values are those of `Block.reset`, and their STATUS has no bit set. -/
theorem resetGivesTheSpecValues : Obligations.ResetGivesTheSpecValues :=
  ⟨fun _ _ => ⟨rfl, rfl, rfl, rfl, reset_status⟩, rfl, rfl, rfl, rfl, reset_status⟩

end Sys2Proof.Machine
end

section
/-! Several blocks stepped in any interleaving (R38): an instance's step is its own machine's and leaves the others alone, so a
schedule takes each instance through as many of its own steps as it names it. -/

namespace Sys2Proof.Machine

section

variable {w : Nat} {sys sys' : List (State w)}

/-- What a step of instance `k` can do: nothing where there is no such instance, else that machine's own step, in its place. -/
theorem stepInstance_cases {k : Nat} (h : stepInstance k sys = .next sys') :
    (sys[k]? = none ∧ sys' = sys) ∨
    (∃ s t, sys[k]? = some s ∧ stepAt s = .next t ∧ sys' = sys.set k t) := by
  unfold stepInstance at h
  cases hk : sys[k]? with
  | none =>
    rw [hk] at h
    cases h
    exact .inl ⟨rfl, rfl⟩
  | some s =>
    obtain ⟨t, ht⟩ := stepAt_total s
    simp only [hk, ht] at h
    cases h
    exact .inr ⟨s, t, rfl, ht, rfl⟩

theorem stepInstance_length {k : Nat} (h : stepInstance k sys = .next sys') : sys'.length = sys.length := by
  obtain ⟨-, rfl⟩ | ⟨s, t, -, -, rfl⟩ := stepInstance_cases h
  · rfl
  · exact List.length_set

/-- The others stand still. -/
theorem stepInstance_getElem?_of_ne {j k : Nat} (hjk : j ≠ k) (h : stepInstance j sys = .next sys') :
    sys'[k]? = sys[k]? := by
  obtain ⟨-, rfl⟩ | ⟨s, t, -, -, rfl⟩ := stepInstance_cases h
  · rfl
  · exact List.getElem?_set_ne hjk

/-- The instance makes its own machine's step. -/
theorem stepInstance_getElem?_self {k : Nat} {s : State w} (hk : sys[k]? = some s) (h : stepInstance k sys = .next sys') :
    ∃ t, stepAt s = .next t ∧ sys'[k]? = some t := by
  obtain ⟨hnone, -⟩ | ⟨s', t, hs', ht, rfl⟩ := stepInstance_cases h
  · rw [hk] at hnone
    cases hnone
  · obtain rfl : s = s' := Option.some.inj (hk.symm.trans hs')
    obtain ⟨hlt, -⟩ := List.getElem?_eq_some_iff.mp hk
    exact ⟨t, ht, List.getElem?_set_self hlt⟩

/-- A schedule goes on from where its first step leads. -/
theorem runSchedule_cons {j : Nat} {js : List Nat} (h : runSchedule (j :: js) sys = .next sys') :
    ∃ mid, stepInstance j sys = .next mid ∧ runSchedule js mid = .next sys' := by
  rw [runSchedule] at h
  split at h
  · next mid hmid => exact ⟨mid, hmid, h⟩
  · cases h
  · cases h

theorem runSchedule_length {schedule : List Nat} (h : runSchedule schedule sys = .next sys') :
    sys'.length = sys.length := by
  induction schedule generalizing sys with
  | nil => cases h; rfl
  | cons j js ih =>
    obtain ⟨mid, hmid, hrest⟩ := runSchedule_cons h
    exact (ih hrest).trans (stepInstance_length hmid)

/-- By induction on the schedule: a step of instance `k` is one of its own run, a step of another leaves it where it is. -/
theorem runSchedule_getElem? (valid : Config.ValidWidth w) {schedule : List Nat} {k : Nat} {s : State w}
    (h : runSchedule schedule sys = .next sys') (hk : sys[k]? = some s) :
    ∃ t : State w, Host.Core.run (coreAt w valid) (schedule.count k) s = .next t ∧ sys'[k]? = some t := by
  induction schedule generalizing sys s with
  | nil => cases h; exact ⟨s, rfl, hk⟩
  | cons j js ih =>
    obtain ⟨mid, hmid, hrest⟩ := runSchedule_cons h
    by_cases hjk : j = k
    · subst hjk
      obtain ⟨u, hu, hmidu⟩ := stepInstance_getElem?_self hk hmid
      rw [List.count_cons_self, runAt_succ hu]
      exact ih hrest hmidu
    · rw [List.count_cons_of_ne hjk]
      exact ih hrest ((stepInstance_getElem?_of_ne hjk hmid).trans hk)

end

/-- Settles O54: the list keeps its length, and each instance makes its own steps, as many as the schedule names it. -/
theorem instancesDoNotInteract : Obligations.InstancesDoNotInteract :=
  fun _ valid _ _ _ h => ⟨runSchedule_length h, fun _ _ hk => runSchedule_getElem? valid h hk⟩

end Sys2Proof.Machine
end

section
/-! The other round trip of R44 to R46: the command a word decodes to has the word's OPC, is a command of the block, and stands in
the one row of the opcode table that selects the OPC. -/

namespace Sys2Proof.Laws.EncodedOpcode

/-- The laws of the fifteen rows as one. -/
theorem statement_of_instr : ∀ i : Instr, Statement i
  | .nop data => nop data
  | .setamp a => setamp a
  | .newseq data => newseq data
  | .rdstat data => rdstat data
  | .encAmi b => encAmi b
  | .encNrz b => encNrz b
  | .modAsk sym => modAsk sym
  | .modBpsk sym => modBpsk sym
  | .demAsk r => demAsk r
  | .demBpsk r => demBpsk r
  | .decAmi sym => decAmi sym
  | .decNrz sym => decNrz sym
  | .rsvSel unit sel data => rsvSel unit sel data
  | .rsvCtl4to7 func data => rsvCtl4to7 func data
  | .rsvCtl8to15 func data => rsvCtl8to15 func data

end Sys2Proof.Laws.EncodedOpcode

namespace Sys2Proof

variable {w : Nat}

/-! ### The fields of an OPC (R41) -/

theorem opc_eq_fields : ∀ opc : BitVec 5,
    opc = if kField opc = 0#1 then 0#1 ++ funcField opc else 1#1 ++ unitField opc ++ selField opc := by decide

theorem func_cases : ∀ func : BitVec 4, func = 0 ∨ func = 1 ∨ func = 2 ∨ func = 3 ∨ 4 ≤ func.toNat := by decide

theorem unit_cases : ∀ unit : BitVec 2, unit = 0 ∨ unit = 1 ∨ unit = 2 ∨ unit = 3 := by decide

theorem sel_cases : ∀ sel : BitVec 2, sel = 0 ∨ sel = 1 ∨ selUnrecognised sel = true := by decide

/-! ### What the decoder gives -/

/-- `i` has the code `opc`, and is a command of the block at every width where `dv` fits the DATA field. -/
def Instr.HasCode (i : Instr) (opc : BitVec 5) (dv : Int) : Prop :=
  i.opcode = opc ∧ ∀ w, i.wellFormed w = dataFits w dv

/-- R44, R46. -/
theorem decodeControl_hasCode (func : BitVec 4) (dv : Int) : (decodeControl func dv).HasCode (0#1 ++ func) dv := by
  obtain rfl | rfl | rfl | rfl | hlow := func_cases func
  iterate 4 exact ⟨rfl, fun _ => rfl⟩
  rw [decodeControl_reserved hlow]
  split
  · next hhigh => exact ⟨rfl, fun w => by simp [Instr.wellFormed, hlow, hhigh]⟩
  · next hhigh => exact ⟨rfl, fun w => by simp [Instr.wellFormed, Nat.le_of_not_lt hhigh]⟩

/-- R44, R45. -/
theorem decodeDatapath_hasCode (unit sel : BitVec 2) (dv : Int) :
    (decodeDatapath unit sel dv).HasCode (1#1 ++ unit ++ sel) dv := by
  obtain rfl | rfl | hsel := sel_cases sel
  · obtain rfl | rfl | rfl | rfl := unit_cases unit <;> exact ⟨rfl, fun _ => rfl⟩
  · obtain rfl | rfl | rfl | rfl := unit_cases unit <;> exact ⟨rfl, fun _ => rfl⟩
  · rw [decodeDatapath_unrecognised hsel]
    exact ⟨rfl, fun w => by simp [Instr.wellFormed, hsel]⟩

theorem decodeOpc_hasCode (opc : BitVec 5) (dv : Int) : (decodeOpc opc dv).HasCode opc dv := by
  have hopc := opc_eq_fields opc
  split at hopc <;> rw [hopc]
  · rw [decodeOpc_control]
    exact decodeControl_hasCode _ dv
  · rw [decodeOpc_datapath]
    exact decodeDatapath_hasCode _ _ dv

theorem decode_opcode (cmd : CmdWord w) : (decode cmd).opcode = opcField cmd := (decodeOpc_hasCode _ _).1

/-- Every word decodes to a command of the block (R48). -/
theorem decode_wellFormed (cmd : CmdWord w) : (decode cmd).wellFormed w = true := by
  rw [decode, (decodeOpc_hasCode _ _).2]
  obtain rfl | hw := Nat.eq_zero_or_pos w
  · rw [BitVec.eq_nil (dataField cmd)]
    decide
  · exact dataFits_signedW hw _

theorem encode_decode (cmd : CmdWord w) : encode w (decode cmd) = cmd := by
  rw [encode, decode_opcode, decode_operand, tcW_signedW, fields_append]

/-! ### The opcode table (R44 to R47) -/

theorem row_mem_opcTable (i : Instr) : i.row ∈ opcTable := by
  cases i <;> simp [opcTable, Instr.row]

/-- The OPC of a command of the block is a code of its row. -/
theorem row_selects_opcode {i : Instr} (h : i.wellFormed w = true) : i.row.selects i.opcode = true := by
  rw [← opcField_encode (w := w)]
  exact Laws.EncodedOpcode.statement_of_instr i w h

/-- R47: no OPC is without a row or in two. -/
theorem opcTable_selects_once : ∀ opc : BitVec 5, (opcTable.filter (·.selects opc)).length = 1 := by decide

theorem opcTable_row_unique {opc : BitVec 5} {row row' : OpcRow} (hrow : row ∈ opcTable) (hsel : row.selects opc = true)
    (hrow' : row' ∈ opcTable) (hsel' : row'.selects opc = true) : row = row' := by
  obtain ⟨only, honly⟩ := List.length_eq_one_iff.mp (opcTable_selects_once opc)
  have hmem {r : OpcRow} (hr : r ∈ opcTable) (hs : r.selects opc = true) : r = only := by
    rw [← List.mem_singleton, ← honly]
    exact List.mem_filter.mpr ⟨hr, hs⟩
  exact (hmem hrow hsel).trans (hmem hrow' hsel').symm

theorem decode_row_selects (cmd : CmdWord w) : (decode cmd).row.selects (opcField cmd) = true :=
  decode_opcode cmd ▸ row_selects_opcode (decode_wellFormed cmd)

/-- A row that selects a word's OPC is the row of the word's command. -/
theorem decode_row_unique (cmd : CmdWord w) {row : OpcRow} (hrow : row ∈ opcTable)
    (hsel : row.selects (opcField cmd) = true) : row = (decode cmd).row :=
  opcTable_row_unique hrow hsel (row_mem_opcTable _) (decode_row_selects cmd)

/-- Settles O1: the word's OPC and DATA are the command's, and the decoder reads both back. -/
theorem decodeInvertsEncode : Obligations.DecodeInvertsEncode :=
  fun _ _ hw hi => decode_encode (by omega) hi

/-- Settles O2: the command has the word's OPC and operand, so it is well formed and its word has the same two fields. -/
theorem encodeInvertsDecode : Obligations.EncodeInvertsDecode :=
  fun _ cmd _ => ⟨decode_wellFormed cmd, encode_decode cmd⟩

/-- Settles O3: the row of the command selects the word's OPC, and no OPC is selected twice. -/
theorem decoderFollowsTheOpcodeTable : Obligations.DecoderFollowsTheOpcodeTable :=
  fun _ cmd => ⟨row_mem_opcTable _, decode_row_selects cmd, fun _ => decode_row_unique cmd, decode_operand cmd⟩

/-- Settles O4: the counts over the 32 codes, and the row of a command is found from the OPC alone. -/
theorem everyOpcodeHasOneMeaning : Obligations.EveryOpcodeHasOneMeaning := by
  refine ⟨opcTable_selects_once, by decide, by decide, by decide, fun w cmd cmd' h => ?_⟩
  exact decode_row_unique cmd' (row_mem_opcTable _) (h ▸ decode_row_selects cmd)

/-- Settles O5: the decoder run on the words. -/
theorem writtenOutWordsDecode : Obligations.WrittenOutWordsDecode := by
  unfold Obligations.WrittenOutWordsDecode
  decide

/-- Settles O6: the assembler run on the lines. -/
theorem assemblerExamplesAssemble : Obligations.AssemblerExamplesAssemble := by
  unfold Obligations.AssemblerExamplesAssemble
  decide

end Sys2Proof
end

section
/-! The reserved rows on the machine: whatever their free bits are, they raise their cause and do nothing else (R45, R46). -/

namespace Sys2Proof.Machine

variable {w : Nat}

/-- R135: the fault entry of a command on the machine. -/
theorem exec_of_cause {i : Instr} {s : State} (h : s.block.fault = .noFault) (hc : causeRaised s.block i ≠ .noFault) :
    exec i s = .next { s with
      block := s.block.setFault (causeRaised s.block i), rsp := some ⟨causeRaised s.block i, 0#16⟩ } := by
  rw [exec_is_command, command_of_cause h hc]
  rfl

theorem fields_of_unrecognised : ∀ opc : BitVec 5, opc.getLsbD 4 = true → opc.getLsbD 1 = true →
    kField opc ≠ 0#1 ∧ selUnrecognised (selField opc) = true := by decide

/-- R45: `OPC[4] = 1` and `OPC[1] = 1` make a word one of the row RSV.SEL. -/
theorem decode_of_unrecognised {cmd : CmdWord w} (h4 : (opcField cmd).getLsbD 4 = true)
    (h1 : (opcField cmd).getLsbD 1 = true) :
    ∃ unit sel data, decode cmd = .rsvSel unit sel data := by
  obtain ⟨hk, hsel⟩ := fields_of_unrecognised _ h4 h1
  refine ⟨unitField (opcField cmd), selField (opcField cmd), signedW (dataField cmd), ?_⟩
  rw [decode, decodeOpc, if_neg hk, decodeDatapath_unrecognised hsel]

theorem fields_of_reserved_control : ∀ opc : BitVec 5, 0x04 ≤ opc.toNat → opc.toNat ≤ 0x0F →
    kField opc = 0#1 ∧ 4 ≤ (funcField opc).toNat := by decide

/-- R46: the codes 0x04 to 0x0F make a word one of a reserved control row. -/
theorem decode_of_reserved_control {cmd : CmdWord w} (hlow : 0x04 ≤ (opcField cmd).toNat)
    (hhigh : (opcField cmd).toNat ≤ 0x0F) :
    ∃ func data, decode cmd = .rsvCtl4to7 func data ∨ decode cmd = .rsvCtl8to15 func data := by
  obtain ⟨hk, hfunc⟩ := fields_of_reserved_control _ hlow hhigh
  refine ⟨funcField (opcField cmd), signedW (dataField cmd), ?_⟩
  rw [decode, decodeOpc, if_pos hk, decodeControl_reserved hfunc]
  split
  · exact .inl rfl
  · exact .inr rfl

/-- Settles O40: every such word is of the row RSV.SEL, whose cause is INVALID_MODULATION. -/
theorem unrecognisedSelectorFaults : Obligations.UnrecognisedSelectorFaults := by
  refine ⟨fun unit sel data s h => exec_of_cause h nofun, fun s cmd rest h hin h4 h1 => ?_⟩
  obtain ⟨unit, sel, data, hdec⟩ := decode_of_unrecognised h4 h1
  rw [step_word hin, hdec]
  exact exec_of_cause h nofun

/-- Settles O41: every such word is of a reserved control row, whose cause is ILLEGAL_COMMAND. -/
theorem reservedControlFaults : Obligations.ReservedControlFaults := by
  refine ⟨fun func data s h => ⟨exec_of_cause h nofun, exec_of_cause h nofun⟩, fun s cmd rest h hin hlow hhigh => ?_⟩
  obtain ⟨func, data, hdec | hdec⟩ := decode_of_reserved_control hlow hhigh <;> rw [step_word hin, hdec] <;>
    exact exec_of_cause h nofun

end Sys2Proof.Machine
end

section
/-! Operand domains, ERR and the result classes (R43, R49, R50, R131). -/

namespace Sys2Proof.Machine

variable {w : Nat} {b : Block w} {i : Instr}

/-! ### FAULT and the response after a command (R49) -/

theorem Block.written_fault (b : Block w) (i : Instr) : (b.written i).fault = b.fault := by
  cases i <;> rfl

theorem command_err (b : Block w) (i : Instr) : (b.command i).2.err = (b.command i).1.fault := by
  obtain ⟨h, -, herr, hb⟩ | ⟨-, hb⟩ := command_cases b i
  · rw [herr, hb, Block.written_fault, h]
  · rw [hb]
    rfl

/-- In a block without a fault, FAULT takes the cause of the table of R131. -/
theorem command_fault (h : b.fault = .noFault) (i : Instr) : (b.command i).1.fault = causeRaised b i := by
  by_cases hc : causeRaised b i = .noFault
  · rw [command_of_executes h hc, hc]
    exact (b.written_fault i).trans h
  · rw [command_of_cause h hc]
    rfl

/-- R136: every command but RDSTAT is refused by a faulted block. -/
theorem command_eq_refuse (h : b.fault ≠ .noFault) (hi : ∀ data, i ≠ .rdstat data) : b.command i = b.refuse := by
  cases i with
  | rdstat data => exact absurd rfl (hi data)
  | _ => exact Block.unlessFaulted_of_faulted h _

/-- R49: no DATA with an error, but for RDSTAT. -/
theorem command_data_of_err (herr : (b.command i).2.err ≠ .noFault) (hi : ∀ data, i ≠ .rdstat data) :
    (b.command i).2.data = 0#w := by
  by_cases h : b.fault = .noFault
  · have hc : causeRaised b i ≠ .noFault := by rwa [← command_fault h, ← command_err]
    rw [command_of_cause h hc]
    rfl
  · rw [command_eq_refuse h hi]
    rfl

/-- DATA of a response without error is that of a command that executed (R49, R50). -/
theorem command_executes_of_err (herr : (b.command i).2.err = .noFault) :
    causeRaised b i = .noFault ∧ (b.command i).2.data = b.result i := by
  obtain ⟨h, hc, -, -⟩ | ⟨hne, -⟩ := command_cases b i
  · rw [command_of_executes h hc]
    exact ⟨hc, rfl⟩
  · exact absurd herr hne

/-- Settles O46: the response and FAULT are made together, and the word of the response is its two fields put together. -/
theorem errIsTheFaultField : Obligations.ErrIsTheFaultField := by
  refine ⟨fun i s t ht => ?_, fun w r => ?_, rfl, rfl, rfl, rfl⟩
  · rw [exec_next ht]
    exact ⟨_, rfl, command_err _ _, command_data_of_err⟩
  · exact ⟨BitVec.extractLsb'_append_eq_left, BitVec.extractLsb'_append_eq_right⟩

/-! ### The operand domains (R43, R131) -/

/-- The operand is in the domain of the command's class, and the amplitude it may need is there. -/
def Block.accepts (b : Block w) (i : Instr) : Bool :=
  (!needsAmplitude i || b.ampV) && (operandClass i).admits w i.operand

theorem Block.accepts_iff (b : Block w) (i : Instr) :
    b.accepts i = true ↔ (operandClass i).admits w i.operand = true ∧ (needsAmplitude i = true → b.ampV = true) := by
  rw [Block.accepts, Bool.and_eq_true, Bool.or_eq_true, Bool.not_eq_true', Bool.eq_false_iff, imp_iff_not_or, and_comm]

/-- R62: SETAMP's check, in the form of its operand class: no DATA field holds more than SMAX. -/
theorem setamp_cause {a : Int} (h : dataFits w a = true) :
    (if a ≤ 0 then Cause.invalidParameter else .noFault) =
      if OperandClass.amplitude.admits w a then .noFault else .invalidParameter := by
  obtain ⟨-, hmax⟩ := (dataFits_iff a).mp h
  by_cases ha : a ≤ 0
  · simp [OperandClass.admits, ha, show ¬1 ≤ a by omega]
  · simp [OperandClass.admits, ha, hmax, show 1 ≤ a by omega]

/-- The table of R131 by operand classes. -/
theorem causeRaised_of_not_reserved (hi : i.wellFormed w = true)
    (hrow : i.row.mnemonic ∉ ["RSV.SEL", "RSV.CTL.4_7", "RSV.CTL.8_15"]) :
    causeRaised b i = if b.accepts i then .noFault else .invalidParameter := by
  cases i with
  | nop _ | newseq _ | rdstat _ => rfl
  | setamp _ => exact setamp_cause hi
  | encAmi bit | encNrz bit => exact isBit_cause bit
  | modAsk sym | modBpsk sym => exact ampV_isSym_cause b.ampV sym
  | demAsk r | demBpsk r =>
    have hr : OperandClass.sample.admits w r = true := hi
    rw [Block.accepts, operandClass, Instr.operand, hr, Bool.and_true]
    exact ampV_cause b.ampV
  | decAmi sym | decNrz sym => exact isSym_cause sym
  | rsvSel _ _ _ | rsvCtl4to7 _ _ | rsvCtl8to15 _ _ => exact absurd (by simp [Instr.row]) hrow

/-- Settles O43: FAULT takes the cause of R131, which the operand's class and AMP_V decide. -/
theorem operandDomainsDecideFaults : Obligations.OperandDomainsDecideFaults := by
  intro i s t hi h hrow ht
  have hfault : t.block.fault = if s.block.accepts i then .noFault else .invalidParameter := by
    rw [exec_next ht, ← causeRaised_of_not_reserved hi hrow]
    exact command_fault h i
  rw [hfault, ← Block.accepts_iff]
  cases s.block.accepts i <;> simp

/-! ### The result classes (R50) -/

/-- R83: the product of a symbol and the amplitude is between -SMAX and SMAX. -/
theorem modulateSymbol_bounds {sym : Int} (hb : b.Inv) (hv : b.ampV = true) (hsym : sym = -1 ∨ sym = 0 ∨ sym = 1) :
    -Config.smax w ≤ modulateSymbol sym b.amplitude ∧ modulateSymbol sym b.amplitude ≤ Config.smax w := by
  obtain ⟨hv', -⟩ | ⟨-, hpos, hmax⟩ := hb
  · exact absurd (hv.symm.trans hv') (by decide)
  · obtain rfl | rfl | rfl := hsym <;> simp only [modulateSymbol] <;> omega

/-- R83: the sample a MOD command answers is the exact product. -/
theorem signedW_tcW_modulateSymbol {sym : Int} (hw : 0 < w) (hb : b.Inv) (hv : b.ampV = true)
    (hsym : sym = -1 ∨ sym = 0 ∨ sym = 1) :
    signedW (tcW w (modulateSymbol sym b.amplitude)) = modulateSymbol sym b.amplitude := by
  obtain ⟨hlow, hhigh⟩ := modulateSymbol_bounds hb hv hsym
  refine signedW_tcW hw ((dataFits_iff _).mpr ⟨?_, hhigh⟩)
  rw [Config.smax] at hlow
  rw [Config.smin]
  omega

theorem ResultClass.bit_admits (status : BitVec w) {v : Int} (h : v = 0 ∨ v = 1) :
    ResultClass.bit.admits status (tcW w v) = true := by
  obtain rfl | rfl := h <;> simp [ResultClass.admits]

theorem ResultClass.symbol_admits (status : BitVec w) {v : Int} (h : v = -1 ∨ v = 0 ∨ v = 1) :
    ResultClass.symbol.admits status (tcW w v) = true := by
  obtain rfl | rfl | rfl := h <;> simp [ResultClass.admits]

/-! The alphabets of the block's functions (R71, R73, R90, R92, R100, R102). -/

theorem ami_isSym (p : Bool) (bit : Int) : (ami p bit).1 = -1 ∨ (ami p bit).1 = 0 ∨ (ami p bit).1 = 1 := by
  unfold ami
  split
  · exact .inr (.inl rfl)
  · cases p <;> simp

theorem nrz_isSym {bit : Int} (h : bit = 0 ∨ bit = 1) : nrz bit = -1 ∨ nrz bit = 0 ∨ nrz bit = 1 := by
  rw [nrz]
  omega

theorem sliceAsk_isSym (r a : Int) : sliceAsk r a = -1 ∨ sliceAsk r a = 0 ∨ sliceAsk r a = 1 := by
  rw [sliceAsk]
  omega

theorem sliceBpsk_isSym (r a : Int) : sliceBpsk r a = -1 ∨ sliceBpsk r a = 0 ∨ sliceBpsk r a = 1 := by
  rw [sliceBpsk]
  omega

theorem decAmiBit_isBit (sym : Int) : decAmiBit sym = 0 ∨ decAmiBit sym = 1 := by
  rw [decAmiBit]
  omega

theorem decNrzBit_isBit (sym : Int) : decNrzBit sym = 0 ∨ decNrzBit sym = 1 := by
  rw [decNrzBit]
  omega

/-- R50: what a command that executes answers, class by class. -/
theorem result_of_its_class (hw : 0 < w) (hb : b.Inv) (hc : causeRaised b i = .noFault) :
    (resultClass i).admits b.status (b.result i) = true := by
  cases i with
  | nop _ | setamp _ | newseq _ | rdstat _ => simp [resultClass, ResultClass.admits, Block.result]
  | encAmi bit => exact ResultClass.symbol_admits _ (ami_isSym b.amiPar bit)
  | encNrz bit =>
    have hbit : bit = 0 ∨ bit = 1 := by
      by_contra hbit
      cases hc.symm.trans (if_neg hbit)
    exact ResultClass.symbol_admits _ (nrz_isSym hbit)
  | modAsk sym | modBpsk sym =>
    obtain ⟨hv, hsym⟩ : b.ampV = true ∧ (sym = -1 ∨ sym = 0 ∨ sym = 1) := by
      by_contra h
      rw [not_and_or, Bool.not_eq_true] at h
      cases hc.symm.trans (if_pos h)
    have hval := signedW_tcW_modulateSymbol hw hb hv hsym
    simpa [resultClass, ResultClass.admits, Block.result, hval] using modulateSymbol_bounds hb hv hsym
  | demAsk r => exact ResultClass.symbol_admits _ (sliceAsk_isSym r b.amplitude)
  | demBpsk r => exact ResultClass.symbol_admits _ (sliceBpsk_isSym r b.amplitude)
  | decAmi sym => exact ResultClass.bit_admits _ (decAmiBit_isBit sym)
  | decNrz sym => exact ResultClass.bit_admits _ (decNrzBit_isBit sym)
  | rsvSel _ _ _ | rsvCtl4to7 _ _ | rsvCtl8to15 _ _ => cases hc

/-- Settles O47: a response without error is that of a command that executed, and its DATA is `Block.result`. -/
theorem resultsAreOfTheirClass : Obligations.ResultsAreOfTheirClass := by
  intro i s t data hs ht hrsp
  rw [exec_next ht] at hrsp
  have hr := Option.some.inj hrsp
  obtain ⟨hc, hdata⟩ := command_executes_of_err (congrArg Response.err hr)
  obtain rfl : s.block.result i = data := hdata.symm.trans (congrArg Response.data hr)
  exact result_of_its_class (by decide) hs hc

end Sys2Proof.Machine
end

section
/-! The control commands on the machine, and the step that runs the word presented (R40, R60 to R64). -/

namespace Sys2Proof

/-- The decoder reads OPC and DATA of a word put together from them (R40, R48). -/
theorem decode_append {w : Nat} (opc : BitVec 5) (data : BitVec w) :
    decode (opc ++ data : CmdWord w) = decodeOpc opc (signedW data) := by
  rw [decode, opcField_append, dataField_append]

end Sys2Proof

namespace Sys2Proof.Machine

/-- An encoding rule is one about the OPC alone. -/
theorem encodedAs_of_decodeOpc {opc : BitVec 5} {command : Int → Instr} (h : ∀ dv, decodeOpc opc dv = command dv) :
    EncodedAs opc command :=
  fun _ data => (decode_append opc data).trans (h (signedW data))

/-! ### A command on the machine: it executes or raises its cause (R60, R135) -/

section

variable {i : Instr} {s : State} (h : s.block.fault = .noFault)

include h

theorem exec_of_executes (hc : causeRaised s.block i = .noFault) :
    exec i s = .next { s with block := s.block.written i, rsp := some ⟨.noFault, s.block.result i⟩ } := by
  rw [exec_is_command, command_of_executes h hc]
  rfl

/-- `exec_of_cause` with the cause already known. -/
theorem exec_raises {c : Cause} (hc : causeRaised s.block i = c) (hne : c ≠ .noFault) :
    exec i s = .next { s with block := s.block.setFault c, rsp := some ⟨c, 0#16⟩ } := by
  subst hc
  exact exec_of_cause h hne

end

/-! ### What a command leaves, whether it executes, faults or is refused -/

section

variable {w : Nat} {b : Block w} {i : Instr}

/-- A view of the block that neither the command's writing nor a fault entry changes, the command leaves as it was. -/
theorem command_leaves {α : Type} (view : Block w → α) (hfault : ∀ c, view (b.setFault c) = view b)
    (hwritten : view (b.written i) = view b) : view (b.command i).1 = view b := by
  obtain ⟨-, -, -, hb⟩ | ⟨-, hb⟩ := command_cases b i <;> rw [hb]
  · exact hwritten
  · exact hfault _

/-- A command that raises no cause leaves FAULT, in a faulted block too (R136). -/
theorem command_leaves_fault (hc : causeRaised b i = .noFault) : (b.command i).1.fault = b.fault := by
  by_cases h : b.fault = .noFault
  · rw [command_fault h, hc, h]
  · rw [(command_of_faulted h i).1]

end

/-! ### The pins that present a word (R40, R150) -/

theorem PortIn.eq_word {w : Nat} {p : PortIn w} (hr : p.rst = false) (hv : p.cmdValid = true) : p = .word p.cmd := by
  rw [PortIn.word, ← hr, ← hv]

/-- A number the port has room for is presented as the word it is (log 4). -/
theorem PortIn.number_of_lt {w n : Nat} (hn : n < 2 ^ (5 + w)) : PortIn.number w n = .word (BitVec.ofNat (5 + w) n) := by
  rw [PortIn.number, cmdWordOfNat, if_pos hn]

/-- Settles O49: the fields named are in neither the command's writing nor the fault entry; NEWSEQ raises no cause. -/
theorem writingCommandsKeepTheRest : Obligations.WritingCommandsKeepTheRest := by
  refine ⟨fun a s t ht => ?_, fun data s t ht => ?_, fun b s t ht => ?_⟩ <;> obtain rfl := exec_next ht
  · exact ⟨command_leaves Block.amiPar (fun _ => rfl) rfl, rfl⟩
  · exact ⟨command_leaves Block.amp (fun _ => rfl) rfl, command_leaves Block.ampV (fun _ => rfl) rfl,
      command_leaves_fault rfl, rfl⟩
  · exact ⟨command_leaves Block.amp (fun _ => rfl) rfl, command_leaves Block.ampV (fun _ => rfl) rfl, rfl⟩

/-- Settles O10: in both clauses the next pins are those of a word. -/
theorem stepRunsTheDecodedCommand : Obligations.StepRunsTheDecodedCommand := by
  refine ⟨fun s p rest hin hr hv => ?_, fun s n hn => ?_⟩
  · rw [PortIn.eq_word hr hv] at hin
    exact step_word hin
  · have hmod : n % 2 ^ 24 = n := Nat.mod_eq_of_lt (by omega)
    have hin : (s.withFetchWord 24 n).inputs = .word (BitVec.ofNat 21 n) :: s.inputs := by
      rw [State.withFetchWord, hmod, PortIn.number_of_lt hn]
      rfl
    exact step_word hin

/-- Settles O12: NOP raises no cause, writes nothing and has the result 0. -/
theorem nopAnswersZero : Obligations.NopAnswersZero :=
  ⟨encodedAs_of_decodeOpc (decodeOpc_control 0), fun _ _ h => exec_of_executes h rfl⟩

/-- Settles O13: the cause of SETAMP in the table of R131 is decided by `a <= 0`; DATA holds every `a` of a word. -/
theorem setampLoadsPositiveAmplitudes : Obligations.SetampLoadsPositiveAmplitudes := by
  refine ⟨encodedAs_of_decodeOpc (decodeOpc_control 1), fun a s h hfits => ⟨fun ha => ?_, fun _ => ?_, fun ha => ?_⟩⟩
  · exact exec_of_executes h (if_neg (not_le.mpr ha))
  · exact signedW_tcW (by decide) hfits
  · exact exec_raises h (if_pos ha) nofun

/-- Settles O14: NEWSEQ raises no cause, writes AMI_PAR and has the result 0. -/
theorem newseqClearsParity : Obligations.NewseqClearsParity :=
  ⟨encodedAs_of_decodeOpc (decodeOpc_control 2), fun _ _ h => exec_of_executes h rfl⟩

/-- Settles O15: RDSTAT makes no test of FAULT, so the block's answer is the same in every state (R136). -/
theorem rdstatReadsStatus : Obligations.RdstatReadsStatus :=
  ⟨encodedAs_of_decodeOpc (decodeOpc_control 3), fun data s => exec_is_command (.rdstat data) s⟩

end Sys2Proof.Machine
end

section
/-! The line encoder: one bit a command, and whole sequences (R70 to R77). -/

namespace Sys2Proof.Machine

/-! ### One bit (R71) -/

theorem ami_zero (p : Bool) : ami p 0 = (0, p) := rfl

theorem ami_one (p : Bool) : ami p 1 = (if p then -1 else 1, !p) := by cases p <;> rfl

/-! ### The sequence functions without the machine (R74 to R77) -/

section

variable {bits : List Int}

@[simp] theorem encodeAmi_nil : encodeAmi [] = [] := rfl

/-- A 0-bit does not count. -/
@[simp] theorem encodeAmi_zero_cons (bits : List Int) : encodeAmi (0 :: bits) = 0 :: encodeAmi bits := by
  rw [encodeAmi, List.mapIdx_cons]
  simp [encodeAmi]

/-- A 1-bit gives +1 and inverts every sign after it, since it makes every later count one more. -/
@[simp] theorem encodeAmi_one_cons (bits : List Int) : encodeAmi (1 :: bits) = 1 :: (encodeAmi bits).map (- ·) := by
  rw [encodeAmi, List.mapIdx_cons]
  refine congrArg _ (List.mapIdx_eq_iff.mpr fun i => ?_)
  rw [encodeAmi, List.getElem?_map, List.getElem?_mapIdx, Option.map_map, List.take_succ_cons, List.count_cons_self]
  congr 1
  funext b
  rw [Function.comp_apply]
  split_ifs <;> omega

theorem encodeAmi_length (bits : List Int) : (encodeAmi bits).length = bits.length := List.length_mapIdx

theorem encodeNrz_length (bits : List Int) : (encodeNrz bits).length = bits.length := List.length_map _

theorem encodeAmi_alphabet {x : Int} (hx : x ∈ encodeAmi bits) : x = -1 ∨ x = 0 ∨ x = 1 := by
  obtain ⟨i, hi, rfl⟩ := List.mem_mapIdx.mp hx
  split_ifs <;> simp

theorem encodeNrz_alphabet {x : Int} (hx : x ∈ encodeNrz bits) : x = -1 ∨ x = 1 := by
  obtain ⟨b, -, rfl⟩ := List.mem_map.mp hx
  split_ifs <;> simp

theorem encodeAmi_getElem?_of_zero {k : Nat} (h : bits[k]? = some 0) : (encodeAmi bits)[k]? = some 0 := by
  rw [encodeAmi, List.getElem?_mapIdx, h]
  rfl

/-- On bits the block's function is that of the sequence (R73, R75). -/
theorem encodeNrz_eq_map_nrz (hbits : ∀ b ∈ bits, b = 0 ∨ b = 1) : encodeNrz bits = bits.map nrz := by
  refine List.map_congr_left fun b hb => ?_
  obtain rfl | rfl := hbits b hb <;> rfl

/-- The sign of the `k`-th non-zero symbol, from 0: +1, -1, +1, ... (R76). -/
def markSign (k : Nat) : Int := if k % 2 = 0 then 1 else -1

theorem markSign_succ (k : Nat) : markSign (k + 1) = -markSign k := by
  unfold markSign
  split_ifs <;> omega

/-- The first `n + 1` marks are +1 and then the first `n` inverted. -/
theorem map_markSign_range_succ (n : Nat) :
    (List.range (n + 1)).map markSign = 1 :: ((List.range n).map markSign).map (- ·) := by
  rw [List.range_succ_eq_map, List.map_cons, List.map_map, List.map_map]
  exact congrArg _ (List.map_congr_left fun k _ => markSign_succ k)

theorem filter_ne_zero_map_neg (xs : List Int) :
    (xs.map (- ·)).filter (· ≠ 0) = (xs.filter (· ≠ 0)).map (- ·) := by
  rw [List.filter_map]
  simp [Function.comp_def]

/-- By induction on the bits: a 1-bit puts +1 before the inverted marks of the rest. -/
theorem encodeAmi_marks (hbits : ∀ b ∈ bits, b = 0 ∨ b = 1) :
    (encodeAmi bits).filter (· ≠ 0) = (List.range (bits.count 1)).map markSign := by
  induction bits with
  | nil => rfl
  | cons b bits ih =>
    obtain ⟨rfl | rfl, hmore⟩ := List.forall_mem_cons.mp hbits
    · rw [encodeAmi_zero_cons, List.count_cons_of_ne (by decide), ← ih hmore]
      rfl
    · rw [encodeAmi_one_cons, List.count_cons_self, map_markSign_range_succ, ← ih hmore, ← filter_ne_zero_map_neg]
      rfl

/-- By induction on the bits: after a 1-bit the sum is 1 less a running sum of the rest. -/
theorem encodeAmi_take_sum (hbits : ∀ b ∈ bits, b = 0 ∨ b = 1) (k : Nat) :
    ((encodeAmi bits).take k).sum = 0 ∨ ((encodeAmi bits).take k).sum = 1 := by
  induction bits generalizing k with
  | nil => simp
  | cons b bits ih =>
    cases k with
    | zero => exact .inl rfl
    | succ k =>
      obtain ⟨rfl | rfl, hmore⟩ := List.forall_mem_cons.mp hbits
      · simpa using ih hmore k
      · have hneg : (((encodeAmi bits).map (- ·)).take k).sum = -((encodeAmi bits).take k).sum := by
          rw [← List.map_take, List.sum_neg]
        rw [encodeAmi_one_cons, List.take_succ_cons, List.sum_cons, hneg]
        have hsum := ih hmore k
        omega

end

/-- Settles O22: the marks and the running sum by induction on the bits, the zeros by position. -/
theorem amiMarksAlternate : Obligations.AmiMarksAlternate :=
  fun _ hbits => ⟨encodeAmi_marks hbits, fun _ => encodeAmi_getElem?_of_zero, encodeAmi_take_sum hbits⟩

/-- Settles O23: both functions give one symbol of their alphabet at each position. -/
theorem encodersKeepLengthAndAlphabet : Obligations.EncodersKeepLengthAndAlphabet :=
  ⟨fun bits _ => ⟨encodeAmi_length bits, encodeNrz_length bits, fun _ => encodeAmi_alphabet, fun _ => encodeNrz_alphabet⟩,
    by decide⟩

/-! ### Transcripts of commands that execute (R2, R49, R60) -/

section

variable {w : Nat} {s : State w} {rest : List (PortIn w)}

theorem transcript_of_word (h : s.block.fault = .noFault) {cmd : CmdWord w} {i : Instr} (hdec : decode cmd = i)
    (hc : causeRaised s.block i = .noFault) (hin : s.inputs = .word cmd :: rest) (k : Nat) :
    transcript (k + 1) s = some ⟨.noFault, s.block.result i⟩ ::
      transcript k { block := s.block.written i, inputs := rest, rsp := some ⟨.noFault, s.block.result i⟩ } := by
  have hstep := stepAt_word hin
  rw [Block.step, hdec, command_of_executes h hc] at hstep
  exact transcript_succ hstep k

theorem transcript_of_presented (hw : 0 < w) (h : s.block.fault = .noFault) {i : Instr} (hi : i.wellFormed w = true)
    (hc : causeRaised s.block i = .noFault) (hin : s.inputs = .command w i :: rest) (k : Nat) :
    transcript (k + 1) s = some ⟨.noFault, s.block.result i⟩ ::
      transcript k { block := s.block.written i, inputs := rest, rsp := some ⟨.noFault, s.block.result i⟩ } :=
  transcript_of_word h (decode_encode hw hi) hc hin k

/-- `op x` is a command of the block that executes in `b`, writes nothing and answers `f x`. -/
structure Block.Computes (b : Block w) (op : Int → Instr) (f : Int → Int) (x : Int) : Prop where
  wellFormed : (op x).wellFormed w = true
  executes : causeRaised b (op x) = .noFault
  writesNothing : writesNothing (op x) = true
  result : b.result (op x) = tcW w (f x)

/-- Commands that write nothing all run on the same block, so one command an element computes the function on the sequence. -/
theorem transcript_of_computes (hw : 0 < w) (h : s.block.fault = .noFault) {op : Int → Instr} {f : Int → Int}
    {xs : List Int} (hxs : ∀ x ∈ xs, s.block.Computes op f x) (hin : s.inputs = commandsOf w op xs ++ rest) :
    transcript xs.length s = answers w (xs.map f) := by
  induction xs generalizing s with
  | nil => rfl
  | cons x xs ih =>
    obtain ⟨⟨hwf, hc, hwrites, hresult⟩, hmore⟩ := List.forall_mem_cons.mp hxs
    rw [List.length_cons, transcript_of_presented hw h hwf hc hin, Block.written_of_writesNothing hwrites, hresult]
    exact congrArg _ (ih h hmore rfl)

/-! ### ENC.AMI and ENC.NRZ, one bit -/

theorem causeRaised_encAmi {b : Block w} {bit : Int} (h : bit = 0 ∨ bit = 1) :
    causeRaised b (.encAmi bit) = .noFault := if_pos h

theorem causeRaised_encNrz {b : Block w} {bit : Int} (h : bit = 0 ∨ bit = 1) :
    causeRaised b (.encNrz bit) = .noFault := if_pos h

theorem encNrz_computes_nrz (hw : Config.ValidWidth w) (b : Block w) {bit : Int} (h : bit = 0 ∨ bit = 1) :
    b.Computes .encNrz nrz bit :=
  ⟨dataFits_bit hw h, causeRaised_encNrz h, rfl, rfl⟩

/-- `encode_ami` of a sequence that goes on after `p` (odd?) earlier 1-bits: an odd number inverts every sign (R155). -/
def encodeAmiFrom (p : Bool) (bits : List Int) : List Int :=
  if p then (encodeAmi bits).map (- ·) else encodeAmi bits

/-- The block's function on one bit is that of the sequence at its head (R71, R74). -/
theorem encodeAmiFrom_cons (p : Bool) {b : Int} (hb : b = 0 ∨ b = 1) (bits : List Int) :
    encodeAmiFrom p (b :: bits) = (ami p b).1 :: encodeAmiFrom (ami p b).2 bits := by
  obtain rfl | rfl := hb
  · rw [ami_zero]
    cases p <;> simp [encodeAmiFrom]
  · rw [ami_one]
    cases p <;> simp [encodeAmiFrom]

/-- By induction on the bits: AMI_PAR is the parity from which each command goes on. -/
theorem transcript_encAmi (hw : Config.ValidWidth w) (h : s.block.fault = .noFault) {bits : List Int}
    (hbits : ∀ b ∈ bits, b = 0 ∨ b = 1) (hin : s.inputs = commandsOf w .encAmi bits ++ rest) :
    transcript bits.length s = answers w (encodeAmiFrom s.block.amiPar bits) := by
  induction bits generalizing s with
  | nil => cases hp : s.block.amiPar <;> rfl
  | cons b bits ih =>
    obtain ⟨hb, hmore⟩ := List.forall_mem_cons.mp hbits
    have hwf : (Instr.encAmi b).wellFormed w = true := dataFits_bit hw hb
    rw [List.length_cons, transcript_of_presented (by omega) h hwf (causeRaised_encAmi hb) hin, encodeAmiFrom_cons _ hb]
    exact congrArg _ (ih h hmore rfl)

theorem tcW_zero (w : Nat) : tcW w 0 = 0#w := BitVec.ofInt_ofNat w 0

theorem result_newseq (b : Block w) (data : Int) : b.result (.newseq data) = tcW w 0 := (tcW_zero w).symm

/-- NEWSEQ is presented whatever integer its ignored DATA stands for (R43, R63). -/
theorem decode_encode_newseq (data : Int) :
    decode (encode w (.newseq data)) = .newseq (signedW (tcW w data)) :=
  (decode_append _ _).trans (decodeOpc_control 2 _)

end

/-- Settles O19: NEWSEQ answers 0 and clears AMI_PAR, from where ENC.AMI counts as `encodeAmi` does. -/
theorem encAmiCommandsComputeEncodeAmi : Obligations.EncAmiCommandsComputeEncodeAmi := by
  intro w bits s data rest hw h hbits
  refine ⟨fun hin => ?_, fun hp hin => ?_⟩
  · rw [transcript_of_word h (decode_encode_newseq data) rfl hin, result_newseq]
    have hcleared := transcript_encAmi hw h hbits
      (s := ⟨s.block.setAmiPar false, commandsOf w .encAmi bits ++ rest, some ⟨.noFault, tcW w 0⟩⟩) rfl
    exact congrArg _ hcleared
  · rw [transcript_encAmi hw h hbits hin, hp]
    rfl

/-- Settles O21: ENC.NRZ computes `nrz` and writes nothing. -/
theorem encNrzCommandsComputeEncodeNrz : Obligations.EncNrzCommandsComputeEncodeNrz := by
  intro w bits s rest hw h hbits hin
  rw [encodeNrz_eq_map_nrz hbits]
  exact transcript_of_computes (by omega) h (fun b hb => encNrz_computes_nrz hw s.block (hbits b hb)) hin

/-! ### One command on the machine -/

section

variable {s : State} (h : s.block.fault = .noFault)

include h

theorem exec_encAmi_of_bit {bit : Int} (hbit : bit = 0 ∨ bit = 1) :
    exec (.encAmi bit) s = .next { s with
      block := s.block.setAmiPar (ami s.block.amiPar bit).2, rsp := some ⟨.noFault, tcW 16 (ami s.block.amiPar bit).1⟩ } :=
  exec_of_executes h (causeRaised_encAmi hbit)

theorem exec_encNrz_of_bit {bit : Int} (hbit : bit = 0 ∨ bit = 1) :
    exec (.encNrz bit) s = .next { s with rsp := some ⟨.noFault, tcW 16 (nrz bit)⟩ } :=
  exec_of_executes h (causeRaised_encNrz hbit)

end

/-- Settles O17: ENC.AMI of a bit answers and writes what `ami` gives; any other operand has a cause in the table of R131. -/
theorem encAmiEncodesABit : Obligations.EncAmiEncodesABit := by
  refine ⟨encodedAs_of_decodeOpc (decodeOpc_datapath 0 0), fun s h =>
    ⟨exec_encAmi_of_bit h (.inl rfl), fun hp => ?_, fun hp => ?_, fun b h0 h1 => ?_⟩⟩
  · rw [exec_encAmi_of_bit h (.inr rfl), hp]
    rfl
  · rw [exec_encAmi_of_bit h (.inr rfl), hp]
    rfl
  · exact exec_raises h (if_neg (by simp [h0, h1])) nofun

/-- Settles O18: ENC.NRZ of a bit answers `nrz`; any other operand has a cause in the table of R131. -/
theorem encNrzEncodesABit : Obligations.EncNrzEncodesABit :=
  ⟨encodedAs_of_decodeOpc (decodeOpc_datapath 0 1), fun _ h =>
    ⟨exec_encNrz_of_bit h (.inl rfl), exec_encNrz_of_bit h (.inr rfl),
      fun _ h0 h1 => exec_raises h (if_neg (by simp [h0, h1])) nofun⟩⟩

end Sys2Proof.Machine
end

section
/-! The modulator: one symbol a command on either route, and whole sequences (R80 to R84). -/

namespace Sys2Proof.Machine

/-! ### MOD of a symbol in a block with an amplitude, on either route (R81, R82) -/

section

variable {w : Nat} {b : Block w} {sym : Int}

theorem smin_eq (w : Nat) : Config.smin w = -Config.smax w - 1 := by
  rw [Config.smin, Config.smax]
  omega

/-- Every block has room for a symbol (R4). -/
theorem dataFits_symbol (hw : Config.ValidWidth w) (h : sym = -1 ∨ sym = 0 ∨ sym = 1) : dataFits w sym = true := by
  obtain ⟨-, hone⟩ := (dataFits_iff 1).mp (dataFits_bit hw (.inr rfl))
  rw [dataFits_iff, smin_eq]
  omega

/-- The positive values of a DATA field are those up to SMAX (R4, R62). -/
theorem dataFits_of_pos {v : Int} (hpos : 1 ≤ v) (hmax : v ≤ Config.smax w) : dataFits w v = true := by
  rw [dataFits_iff, smin_eq]
  omega

theorem modOf_wellFormed (route : Route) (sym : Int) : (modOf route sym).wellFormed w = dataFits w sym := by
  cases route <;> rfl

theorem modOf_writesNothing (route : Route) (sym : Int) : writesNothing (modOf route sym) = true := by
  cases route <;> rfl

theorem result_modOf (b : Block w) (route : Route) (sym : Int) :
    b.result (modOf route sym) = tcW w (modulateSymbol sym b.amplitude) := by
  cases route <;> rfl

/-- R81: with an amplitude and a symbol MOD raises nothing. -/
theorem causeRaised_modOf (route : Route) (hv : b.ampV = true) (hsym : sym = -1 ∨ sym = 0 ∨ sym = 1) :
    causeRaised b (modOf route sym) = .noFault := by
  have hok : ¬(b.ampV = false ∨ ¬(sym = -1 ∨ sym = 0 ∨ sym = 1)) := by simp [hv, hsym]
  cases route <;> exact if_neg hok

theorem command_modOf (route : Route) (h : b.fault = .noFault) (hv : b.ampV = true)
    (hsym : sym = -1 ∨ sym = 0 ∨ sym = 1) :
    b.command (modOf route sym) = b.respond (tcW w (modulateSymbol sym b.amplitude)) := by
  rw [command_of_executes h (causeRaised_modOf route hv hsym), Block.written_of_writesNothing (modOf_writesNothing route sym),
    result_modOf]

/-- R83: MOD of a symbol answers the exact product. -/
theorem command_modOf_exact (hw : 0 < w) (route : Route) (hb : b.Inv) (h : b.fault = .noFault) (hv : b.ampV = true)
    (hsym : sym = -1 ∨ sym = 0 ∨ sym = 1) :
    (b.command (modOf route sym)).2.err = .noFault ∧
      signedW (b.command (modOf route sym)).2.data = sym * b.amplitude := by
  rw [command_modOf route h hv hsym]
  exact ⟨rfl, signedW_tcW_modulateSymbol hw hb hv hsym⟩

theorem modOf_computes (hw : Config.ValidWidth w) (route : Route) (hv : b.ampV = true)
    (hsym : sym = -1 ∨ sym = 0 ∨ sym = 1) : b.Computes (modOf route) (modulateSymbol · b.amplitude) sym where
  wellFormed := (modOf_wellFormed route sym).trans (dataFits_symbol hw hsym)
  executes := causeRaised_modOf route hv hsym
  writesNothing := modOf_writesNothing route sym
  result := result_modOf b route sym

end

/-- Settles O27: the product of a symbol and an amplitude in range is in range, and its pattern has its value. -/
theorem modulatorNeverOverflows : Obligations.ModulatorNeverOverflows := by
  intro w b sym hw hb hv h hsym
  obtain ⟨hlow, hhigh⟩ := modulateSymbol_bounds hb hv hsym
  have hmod (route : Route) := command_modOf_exact (by omega) route hb h hv hsym
  obtain ⟨haskErr, haskData⟩ := hmod .ask
  obtain ⟨hbpskErr, hbpskData⟩ := hmod .bpsk
  exact ⟨hlow, hhigh, haskErr, haskData, hbpskErr, hbpskData⟩

/-! ### Sequences (R84) -/

section

variable {w : Nat} {s : State w} {rest : List (PortIn w)}

/-- MOD of each symbol, where AMP holds the amplitude, gives the samples of `modulate`. -/
theorem transcript_modOf (hw : Config.ValidWidth w) (route : Route) (h : s.block.fault = .noFault)
    (hv : s.block.ampV = true) {symbols : List Int} (hsyms : ∀ x ∈ symbols, x = -1 ∨ x = 0 ∨ x = 1)
    (hin : s.inputs = commandsOf w (modOf route) symbols ++ rest) :
    transcript symbols.length s = answers w (modulate symbols s.block.amplitude) :=
  transcript_of_computes (by omega) h (fun x hx => modOf_computes hw route hv (hsyms x hx)) hin

/-- SETAMP of a legal amplitude answers 0, and the machine goes on with AMP holding it (R62). -/
theorem transcript_setamp (hw : 0 < w) (h : s.block.fault = .noFault) {a : Int} (hpos : 1 ≤ a)
    (hfits : dataFits w a = true) (hin : s.inputs = .command w (.setamp a) :: rest) (k : Nat) :
    transcript (k + 1) s = some ⟨.noFault, tcW w 0⟩ ::
      transcript k { block := s.block.setAmp (tcW w a), inputs := rest, rsp := some ⟨.noFault, tcW w 0⟩ } := by
  have hc : causeRaised s.block (.setamp a) = .noFault := if_neg (by omega)
  have hresult : s.block.result (.setamp a) = tcW w 0 := (tcW_zero w).symm
  have hwf : (Instr.setamp a).wellFormed w = true := hfits
  rw [transcript_of_presented hw h hwf hc hin, hresult]
  rfl

end

/-- Settles O28: SETAMP answers 0 and loads the amplitude, from where every MOD runs on the same block. -/
theorem modCommandsComputeModulate : Obligations.ModCommandsComputeModulate := by
  intro w route symbols amplitude s rest hw h hpos hmax hsyms
  refine ⟨fun hin => ?_, fun hv hamp hin => ?_⟩
  · have hfits := dataFits_of_pos hpos hmax
    have hloaded : (s.block.setAmp (tcW w amplitude)).amplitude = amplitude := signedW_tcW (by omega) hfits
    rw [transcript_setamp (by omega) h hpos hfits hin]
    have hsamples := transcript_modOf hw route h rfl hsyms
      (s := ⟨s.block.setAmp (tcW w amplitude), commandsOf w (modOf route) symbols ++ rest, some ⟨.noFault, tcW w 0⟩⟩) rfl
    rw [hloaded] at hsamples
    exact congrArg _ hsamples
  · rw [transcript_modOf hw route h hv hsyms hin, Block.amplitude, hamp]

/-! ### One command on the machine (R81, R82) -/

theorem exec_modOf_of_symbol (route : Route) {sym : Int} {s : State} (h : s.block.fault = .noFault)
    (hv : s.block.ampV = true) (hsym : sym = -1 ∨ sym = 0 ∨ sym = 1) :
    exec (modOf route sym) s = .next { s with rsp := some ⟨.noFault, tcW 16 (sym * signedW s.block.amp)⟩ } := by
  rw [exec_is_command, command_modOf route h hv hsym]
  rfl

/-- Settles O25: the cause of MOD.ASK in the table of R131 is decided by AMP_V and the operand. -/
theorem modAskScalesASymbol : Obligations.ModAskScalesASymbol :=
  ⟨encodedAs_of_decodeOpc (decodeOpc_datapath 1 0), fun _ _ h =>
    ⟨exec_modOf_of_symbol .ask h, fun hbad => exec_raises h (if_pos hbad) nofun⟩⟩

/-- Settles O26: the two commands have the same meaning in the block, so in every state the same outcome. -/
theorem modBpskIsModAsk : Obligations.ModBpskIsModAsk :=
  ⟨encodedAs_of_decodeOpc (decodeOpc_datapath 1 1), fun _ _ => ⟨rfl, exec_modOf_of_symbol .bpsk⟩⟩

end Sys2Proof.Machine
end

section
/-! The threshold demodulator: the decisions on the exact quotient are comparisons of integers, and DEM of each sample on either
route answers them (R90 to R97). -/

namespace Sys2Proof.Machine

/-! ### The decisions without the machine (R90, R92, R94, R95) -/

/-- R94: the thresholds 1/2 and -1/2 of the quotient, multiplied by twice the amplitude. -/
theorem sliceAskQuotient_eq_sliceAsk {a : Int} (ha : 0 < a) (r : Int) : sliceAskQuotient r a = sliceAsk r a := by
  have haq : (0 : ℚ) < a := Int.cast_pos.mpr ha
  have hup : (r : ℚ) / a > 1 / 2 ↔ 2 * r > a := by
    rw [gt_iff_lt, div_lt_div_iff₀ two_pos haq, one_mul, mul_comm]
    exact_mod_cast Iff.rfl
  have hlow : (r : ℚ) / a < -1 / 2 ↔ 2 * r < -a := by
    rw [div_lt_div_iff₀ haq two_pos, neg_one_mul, mul_comm]
    exact_mod_cast Iff.rfl
  simp only [sliceAskQuotient, sliceAsk, hup, hlow]

/-- R94: a positive amplitude leaves the sign of the sample to the quotient. -/
theorem sliceBpskQuotient_eq_sliceBpsk {a : Int} (ha : 0 < a) (r : Int) : sliceBpskQuotient r a = sliceBpsk r a := by
  have hsign : (r : ℚ) / a ≥ 0 ↔ 0 ≤ r := by
    rw [ge_iff_le, le_div_iff₀ (Int.cast_pos.mpr ha), zero_mul, Int.cast_nonneg_iff]
  simp only [sliceBpskQuotient, sliceBpsk, hsign]

theorem signedW_nonneg_iff {w : Nat} (data : BitVec w) : 0 ≤ signedW data ↔ data.getLsbD (w - 1) = false := by
  rw [← BitVec.msb_eq_getLsbD_last, BitVec.msb_eq_toInt, decide_eq_false_iff_not, not_lt, signedW]

/-- R95: a common positive factor leaves both comparisons with the amplitude as they are. -/
theorem sliceAsk_mul {k : Int} (hk : 0 < k) (r a : Int) : sliceAsk (k * r) (k * a) = sliceAsk r a := by
  have hup : 2 * (k * r) > k * a ↔ 2 * r > a := by
    rw [mul_left_comm]
    exact mul_lt_mul_iff_of_pos_left hk
  have hlow : 2 * (k * r) < -(k * a) ↔ 2 * r < -a := by
    rw [mul_left_comm, ← mul_neg]
    exact mul_lt_mul_iff_of_pos_left hk
  simp only [sliceAsk, hup, hlow]

theorem sliceBpsk_mul {k : Int} (hk : 0 < k) (r a : Int) : sliceBpsk (k * r) (k * a) = sliceBpsk r a := by
  simp only [sliceBpsk, mul_nonneg_iff_of_pos_left hk]

/-- Settles O31: the quotient's thresholds are cleared of the division, and the sign of a pattern is its top bit. -/
theorem thresholdsNeedNoDivision : Obligations.ThresholdsNeedNoDivision := by
  refine ⟨fun r a ha => ?_, fun w data a _ ha => ?_⟩
  · have hask := sliceAskQuotient_eq_sliceAsk ha r
    have hbpsk := sliceBpskQuotient_eq_sliceBpsk ha r
    exact ⟨hask, hask.symm, hbpsk, hbpsk.symm⟩
  · rw [sliceBpskQuotient_eq_sliceBpsk ha, sliceBpsk]
    simp only [signedW_nonneg_iff]

/-- Settles O32: both slicers compare multiples of the sample and the amplitude. -/
theorem slicersAreScaleInvariant : Obligations.SlicersAreScaleInvariant :=
  fun _ r a hk => ⟨sliceAsk_mul hk r a, sliceBpsk_mul hk r a⟩

/-! ### The two routes (R42) -/

/-- The decision of a route on the exact quotient (R90, R92). -/
def quotientDecision : Route → Int → Int → Int
  | .ask => sliceAskQuotient
  | .bpsk => sliceBpskQuotient

/-- The document's demodulator of a route (R96). -/
def demodulate : Route → List Int → Int → List Int
  | .ask => demodulateAsk
  | .bpsk => demodulateBpsk

/-- The symbol that comes back on a route without noise: the BPSK slicer has no zero level (R97). -/
def recoveredSymbol : Route → Int → Int
  | .ask, sym => sym
  | .bpsk, sym => if sym = 0 then 1 else sym

theorem demodulate_eq_map (route : Route) (received : List Int) (a : Int) :
    demodulate route received a = received.map (quotientDecision route · a) := by
  cases route <;> rfl

/-- R97: the decision on the sample of a symbol. -/
theorem quotientDecision_modulateSymbol {a sym : Int} (ha : 0 < a) (route : Route) (hsym : sym = -1 ∨ sym = 0 ∨ sym = 1) :
    quotientDecision route (modulateSymbol sym a) a = recoveredSymbol route sym := by
  cases route with
  | ask =>
    rw [quotientDecision, sliceAskQuotient_eq_sliceAsk ha]
    obtain rfl | rfl | rfl := hsym <;> rw [modulateSymbol, sliceAsk, recoveredSymbol] <;> omega
  | bpsk =>
    rw [quotientDecision, sliceBpskQuotient_eq_sliceBpsk ha]
    obtain rfl | rfl | rfl := hsym <;> rw [modulateSymbol, sliceBpsk, recoveredSymbol] <;> omega

/-! ### DEM of a sample in a block with an amplitude, on either route (R91, R93) -/

section

variable {w : Nat} {b : Block w}

theorem Block.Inv.amplitude_pos (hb : b.Inv) (hv : b.ampV = true) : 0 < b.amplitude := by
  obtain ⟨hv', -⟩ | ⟨-, hpos, -⟩ := hb
  · exact absurd (hv.symm.trans hv') (by decide)
  · exact hpos

theorem causeRaised_demOf (b : Block w) (route : Route) (r : Int) :
    causeRaised b (demOf route r) = if b.ampV = false then .invalidParameter else .noFault := by
  cases route <;> rfl

theorem demOf_executes (route : Route) (r : Int) (hv : b.ampV = true) : causeRaised b (demOf route r) = .noFault := by
  rw [causeRaised_demOf, hv, if_neg nofun]

theorem demOf_writesNothing (route : Route) (r : Int) : writesNothing (demOf route r) = true := by
  cases route <;> rfl

theorem demOf_wellFormed (route : Route) (r : Int) : (demOf route r).wellFormed w = dataFits w r := by
  cases route <;> rfl

/-- DEM answers the decision on the quotient, where there is one (R90, R92). -/
theorem result_demOf (ha : 0 < b.amplitude) (route : Route) (r : Int) :
    b.result (demOf route r) = tcW w (quotientDecision route r b.amplitude) := by
  cases route with
  | ask => exact congrArg (tcW w) (sliceAskQuotient_eq_sliceAsk ha r).symm
  | bpsk => exact congrArg (tcW w) (sliceBpskQuotient_eq_sliceBpsk ha r).symm

theorem demOf_computes (route : Route) (hv : b.ampV = true) (ha : 0 < b.amplitude) {r : Int}
    (hr : dataFits w r = true) : b.Computes (demOf route) (quotientDecision route · b.amplitude) r where
  wellFormed := (demOf_wellFormed route r).trans hr
  executes := demOf_executes route r hv
  writesNothing := demOf_writesNothing route r
  result := result_demOf ha route r

end

/-! ### One command on the machine (R91, R93) -/

section

variable {s : State} (h : s.block.fault = .noFault)

include h

theorem exec_demOf (route : Route) (r : Int) (hs : s.Inv) (hv : s.block.ampV = true) :
    exec (demOf route r) s =
      .next { s with rsp := some ⟨.noFault, tcW 16 (quotientDecision route r (signedW s.block.amp))⟩ } := by
  rw [exec_of_executes h (demOf_executes route r hv), Block.written_of_writesNothing (demOf_writesNothing route r),
    result_demOf (hs.amplitude_pos hv)]
  rfl

theorem exec_demOf_without_amplitude (route : Route) (r : Int) (hv : s.block.ampV = false) :
    exec (demOf route r) s =
      .next { s with block := s.block.setFault .invalidParameter, rsp := some ⟨.invalidParameter, 0#16⟩ } :=
  exec_raises h ((causeRaised_demOf s.block route r).trans (if_pos hv)) nofun

/-- R97: the sample a MOD command answered, given back unchanged to the DEM command of its route. -/
theorem exec_demOf_of_modOf {t : State} {r : Response Config.W} {sym : Int} (route : Route) (hs : s.Inv)
    (hv : s.block.ampV = true) (hsym : sym = -1 ∨ sym = 0 ∨ sym = 1) (hr : t.rsp = some r)
    (ht : exec (modOf route sym) s = .next t) :
    exec (demOf route (signedW r.data)) t = .next { t with rsp := some ⟨.noFault, tcW 16 (recoveredSymbol route sym)⟩ } := by
  rw [exec_modOf_of_symbol route h hv hsym] at ht
  obtain rfl := Host.Outcome.next.inj ht
  obtain rfl := Option.some.inj hr
  have hsample : signedW (tcW 16 (sym * signedW s.block.amp)) = modulateSymbol sym (signedW s.block.amp) :=
    signedW_tcW_modulateSymbol (by decide) hs hv hsym
  rw [← quotientDecision_modulateSymbol (hs.amplitude_pos hv) route hsym, Block.amplitude, ← hsample]
  exact exec_demOf h route _ hs hv

end

/-- Settles O29: DEM.ASK is the DEM command of the ASK route. -/
theorem demAskDecidesByTheQuotient : Obligations.DemAskDecidesByTheQuotient :=
  ⟨encodedAs_of_decodeOpc (decodeOpc_datapath 2 0), fun r _ h =>
    ⟨exec_demOf h .ask r, exec_demOf_without_amplitude h .ask r⟩⟩

/-- Settles O30: DEM.BPSK is the DEM command of the BPSK route. -/
theorem demBpskDecidesByTheQuotient : Obligations.DemBpskDecidesByTheQuotient :=
  ⟨encodedAs_of_decodeOpc (decodeOpc_datapath 2 1), fun r _ h =>
    ⟨exec_demOf h .bpsk r, exec_demOf_without_amplitude h .bpsk r⟩⟩

/-- Settles O33: the decision on the sample of a symbol is the recovered symbol, and MOD answers that sample exactly. -/
theorem slicersInvertTheModulator : Obligations.SlicersInvertTheModulator := by
  refine ⟨fun a sym ha hsym => ⟨?_, fun hne => ?_, ?_⟩, fun s t r sym h hs hv hsym hr => ⟨?_, ?_⟩⟩
  · exact quotientDecision_modulateSymbol ha .ask hsym
  · exact (quotientDecision_modulateSymbol ha .bpsk hsym).trans (if_neg hne)
  · exact quotientDecision_modulateSymbol ha .bpsk (.inr (.inl rfl))
  · exact exec_demOf_of_modOf h .ask hs hv hsym hr
  · exact exec_demOf_of_modOf h .bpsk hs hv hsym hr

/-! ### Sequences (R96) -/

section

variable {w : Nat} {s : State w} {received : List Int} {rest : List (PortIn w)}

/-- DEM of each sample, where AMP holds a positive amplitude, gives the symbols of the demodulator. -/
theorem transcript_demOf (hw : 0 < w) (route : Route) (h : s.block.fault = .noFault) (hv : s.block.ampV = true)
    (ha : 0 < s.block.amplitude) (hfits : ∀ r ∈ received, dataFits w r = true)
    (hin : s.inputs = commandsOf w (demOf route) received ++ rest) :
    transcript received.length s = answers w (demodulate route received s.block.amplitude) := by
  rw [demodulate_eq_map]
  exact transcript_of_computes hw h (fun r hr => demOf_computes route hv ha (hfits r hr)) hin

/-- SETAMP answers 0 and loads the amplitude, from where every DEM runs on the same block. -/
theorem transcript_setamp_demOf (hw : 0 < w) (route : Route) (h : s.block.fault = .noFault) {a : Int} (hpos : 1 ≤ a)
    (hmax : a ≤ Config.smax w) (hfits : ∀ r ∈ received, dataFits w r = true)
    (hin : s.inputs = .command w (.setamp a) :: commandsOf w (demOf route) received ++ rest) :
    transcript (received.length + 1) s = answers w (0 :: demodulate route received a) := by
  have hafits := dataFits_of_pos hpos hmax
  have hloaded : (s.block.setAmp (tcW w a)).amplitude = a := signedW_tcW hw hafits
  rw [transcript_setamp hw h hpos hafits hin]
  have hsymbols := transcript_demOf hw route h rfl (hloaded.symm ▸ hpos) hfits
    (s := ⟨s.block.setAmp (tcW w a), commandsOf w (demOf route) received ++ rest, some ⟨.noFault, tcW w 0⟩⟩) rfl
  rw [hloaded] at hsymbols
  exact congrArg _ hsymbols

end

/-- Settles O34: the samples of either route fit DATA, so every DEM is presented and decides on the amplitude in AMP. -/
theorem demCommandsComputeDemodulate : Obligations.DemCommandsComputeDemodulate := by
  intro w received amplitude s rest hvalid h hpos hmax hreceived
  have hw : 0 < w := by omega
  have hfits : ∀ r ∈ received, dataFits w r = true := fun r hr => (dataFits_iff r).mpr (hreceived r hr)
  have hloads (route : Route) := transcript_setamp_demOf (rest := rest) hw route h hpos hmax hfits
  have hholds (route : Route) (hv : s.block.ampV = true) (hamp : signedW s.block.amp = amplitude) :
      s.inputs = commandsOf w (demOf route) received ++ rest →
        transcript received.length s = answers w (demodulate route received amplitude) := by
    subst hamp
    exact transcript_demOf hw route h hv hpos hfits
  exact ⟨hloads .ask, hloads .bpsk, hholds .ask, hholds .bpsk⟩

end Sys2Proof.Machine
end

section
/-! The symbol decoder: one symbol a command on either route, whole sequences, and the round trip through the four stages of the
block, by the document's functions and run by the host (R100 to R107). -/

namespace Sys2Proof.Machine

/-! ### The functions of a route without the machine (R104 to R107) -/

/-- The document's line encoder of a route (R74, R75). -/
def lineEncode : Route → List Int → List Int
  | .ask => encodeAmi
  | .bpsk => encodeNrz

/-- The document's symbol decoder of a route (R104). -/
def lineDecode : Route → List Int → List Int
  | .ask => decodeAmi
  | .bpsk => decodeNrz

/-- The block's decision on one symbol (R100, R102). -/
def decBit : Route → Int → Int
  | .ask => decAmiBit
  | .bpsk => decNrzBit

theorem lineDecode_eq_map (route : Route) {symbols : List Int} (hsyms : ∀ x ∈ symbols, x = -1 ∨ x = 0 ∨ x = 1) :
    lineDecode route symbols = symbols.map (decBit route) := by
  cases route with
  | ask =>
    refine List.map_congr_left fun x hx => ?_
    obtain rfl | rfl | rfl := hsyms x hx <;> rfl
  | bpsk => rfl

/-- The absolute value does not see an inversion of every sign (R106). -/
theorem decodeAmi_map_neg (symbols : List Int) : decodeAmi (symbols.map (- ·)) = decodeAmi symbols := by
  rw [decodeAmi, List.map_map]
  exact List.map_congr_left fun x _ => abs_neg x

section

variable {bits : List Int}

/-- By induction on the bits: a 1-bit only inverts the signs after it. -/
theorem decodeAmi_encodeAmi (hbits : ∀ b ∈ bits, b = 0 ∨ b = 1) : decodeAmi (encodeAmi bits) = bits := by
  induction bits with
  | nil => rfl
  | cons b bits ih =>
    obtain ⟨rfl | rfl, hmore⟩ := List.forall_mem_cons.mp hbits
    · rw [encodeAmi_zero_cons]
      exact congrArg (0 :: ·) (ih hmore)
    · rw [encodeAmi_one_cons]
      exact congrArg (1 :: ·) ((decodeAmi_map_neg _).trans (ih hmore))

/-- Bit by bit: `nrz` has the sign of its bit. -/
theorem decodeNrz_encodeNrz (hbits : ∀ b ∈ bits, b = 0 ∨ b = 1) : decodeNrz (encodeNrz bits) = bits := by
  rw [decodeNrz, encodeNrz, List.map_map]
  refine (List.map_congr_left fun b hb => ?_).trans (List.map_id _)
  obtain rfl | rfl := hbits b hb <;> rfl

theorem lineDecode_lineEncode (route : Route) (hbits : ∀ b ∈ bits, b = 0 ∨ b = 1) :
    lineDecode route (lineEncode route bits) = bits := by
  cases route with
  | ask => exact decodeAmi_encodeAmi hbits
  | bpsk => exact decodeNrz_encodeNrz hbits

theorem lineEncode_alphabet {route : Route} {x : Int} (hx : x ∈ lineEncode route bits) : x = -1 ∨ x = 0 ∨ x = 1 := by
  cases route with
  | ask => exact encodeAmi_alphabet hx
  | bpsk => exact (encodeNrz_alphabet hx).imp_right .inr

/-- The symbols of a line code come back on its own route: ENC.NRZ gives no 0, the one symbol the BPSK slicer loses (R97). -/
theorem recoveredSymbol_of_encoded {route : Route} {x : Int} (hx : x ∈ lineEncode route bits) :
    recoveredSymbol route x = x := by
  cases route with
  | ask => rfl
  | bpsk => obtain rfl | rfl := encodeNrz_alphabet hx <;> rfl

/-- The channel part of R107: without noise the demodulator gives back the symbols of the line code. -/
theorem demodulate_modulate_lineEncode (route : Route) {a : Int} (ha : 0 < a) :
    demodulate route (modulate (lineEncode route bits) a) a = lineEncode route bits := by
  rw [demodulate_eq_map, modulate, List.map_map]
  refine (List.map_congr_left fun x hx => ?_).trans (List.map_id _)
  exact (quotientDecision_modulateSymbol ha route (lineEncode_alphabet hx)).trans (recoveredSymbol_of_encoded hx)

theorem lineDecode_demodulate_modulate (route : Route) {a : Int} (ha : 0 < a) (hbits : ∀ b ∈ bits, b = 0 ∨ b = 1) :
    lineDecode route (demodulate route (modulate (lineEncode route bits) a) a) = bits := by
  rw [demodulate_modulate_lineEncode route ha, lineDecode_lineEncode route hbits]

end

/-- Settles O38: AMI by induction on the bits, NRZ bit by bit; the lost sign is that of the document's example. -/
theorem decodersRecoverTheBits : Obligations.DecodersRecoverTheBits :=
  ⟨fun _ hbits => ⟨decodeNrz_encodeNrz hbits, decodeAmi_encodeAmi hbits⟩, by decide⟩

/-! ### DEC of a symbol, on either route (R101, R103) -/

section

variable {w : Nat} {sym : Int}

theorem causeRaised_decOf (b : Block w) (route : Route) (sym : Int) :
    causeRaised b (decOf route sym) = if sym = -1 ∨ sym = 0 ∨ sym = 1 then .noFault else .invalidParameter := by
  cases route <;> rfl

theorem decOf_wellFormed (route : Route) (sym : Int) : (decOf route sym).wellFormed w = dataFits w sym := by
  cases route <;> rfl

theorem decOf_writesNothing (route : Route) (sym : Int) : writesNothing (decOf route sym) = true := by
  cases route <;> rfl

theorem result_decOf (b : Block w) (route : Route) (sym : Int) : b.result (decOf route sym) = tcW w (decBit route sym) := by
  cases route <;> rfl

theorem decBit_isBit (route : Route) (sym : Int) : decBit route sym = 0 ∨ decBit route sym = 1 := by
  cases route with
  | ask => exact decAmiBit_isBit sym
  | bpsk => exact decNrzBit_isBit sym

theorem decOf_computes (hw : Config.ValidWidth w) (b : Block w) (route : Route) (hsym : sym = -1 ∨ sym = 0 ∨ sym = 1) :
    b.Computes (decOf route) (decBit route) sym where
  wellFormed := (decOf_wellFormed route sym).trans (dataFits_symbol hw hsym)
  executes := (causeRaised_decOf b route sym).trans (if_pos hsym)
  writesNothing := decOf_writesNothing route sym
  result := result_decOf b route sym

end

section

variable {s : State} (h : s.block.fault = .noFault)

include h

theorem exec_decOf_of_symbol (route : Route) {sym : Int} (hsym : sym = -1 ∨ sym = 0 ∨ sym = 1) :
    exec (decOf route sym) s = .next { s with rsp := some ⟨.noFault, tcW 16 (decBit route sym)⟩ } := by
  rw [exec_of_executes h ((causeRaised_decOf _ route sym).trans (if_pos hsym)),
    Block.written_of_writesNothing (decOf_writesNothing route sym), result_decOf]

theorem exec_decOf_of_no_symbol (route : Route) {sym : Int} (hsym : ¬(sym = -1 ∨ sym = 0 ∨ sym = 1)) :
    exec (decOf route sym) s =
      .next { s with block := s.block.setFault .invalidParameter, rsp := some ⟨.invalidParameter, 0#16⟩ } :=
  exec_raises h ((causeRaised_decOf _ route sym).trans (if_neg hsym)) nofun

end

/-- Settles O35: DEC.AMI is the DEC command of the ASK route. -/
theorem decAmiDecodesASymbol : Obligations.DecAmiDecodesASymbol :=
  ⟨encodedAs_of_decodeOpc (decodeOpc_datapath 3 0), fun _ h =>
    ⟨exec_decOf_of_symbol h .ask (.inr (.inl rfl)), exec_decOf_of_symbol h .ask (.inr (.inr rfl)),
      exec_decOf_of_symbol h .ask (.inl rfl), fun _ => exec_decOf_of_no_symbol h .ask⟩⟩

/-- Settles O36: DEC.NRZ is the DEC command of the BPSK route. -/
theorem decNrzDecodesASymbol : Obligations.DecNrzDecodesASymbol :=
  ⟨encodedAs_of_decodeOpc (decodeOpc_datapath 3 1), fun _ h =>
    ⟨exec_decOf_of_symbol h .bpsk (.inr (.inl rfl)), exec_decOf_of_symbol h .bpsk (.inr (.inr rfl)),
      exec_decOf_of_symbol h .bpsk (.inl rfl), fun _ => exec_decOf_of_no_symbol h .bpsk⟩⟩

/-- R104, on either route. -/
theorem transcript_decOf {w : Nat} {s : State w} {symbols : List Int} {rest : List (PortIn w)} (hw : Config.ValidWidth w)
    (route : Route) (h : s.block.fault = .noFault) (hsyms : ∀ x ∈ symbols, x = -1 ∨ x = 0 ∨ x = 1)
    (hin : s.inputs = commandsOf w (decOf route) symbols ++ rest) :
    transcript symbols.length s = answers w (lineDecode route symbols) := by
  rw [lineDecode_eq_map route hsyms]
  exact transcript_of_computes (by omega) h (fun x hx => decOf_computes hw s.block route (hsyms x hx)) hin

/-- Settles O37: every DEC of a symbol executes, writes nothing and answers the route's decision. -/
theorem decCommandsComputeDecode : Obligations.DecCommandsComputeDecode :=
  fun _ _ _ _ hw h hsyms => ⟨transcript_decOf hw .ask h hsyms, transcript_decOf hw .bpsk h hsyms⟩

/-! ### Commands the host issues (R118) -/

section

variable {w : Nat} {s : State w}

/-- The host gets the result of a command, or the cause in its response; the pins after it are those before it. -/
theorem issue_of_wellFormed (hw : 0 < w) {i : Instr} (hi : i.wellFormed w = true) (s : State w) :
    issue i s =
      if (s.block.command i).2.err = .noFault then
        .ok (⟨(s.block.command i).1, s.inputs, some (s.block.command i).2⟩, signedW (s.block.command i).2.data)
      else .error (.block (s.block.command i).2.err) := by
  have hdrive : drive (.command w i) s = .ok ⟨(s.block.command i).1, s.inputs, some (s.block.command i).2⟩ := by
    rw [drive, stepAt_of_presented hw hi rfl]
  rw [issue, if_pos hi, hdrive]

theorem issue_of_executes (hw : 0 < w) (h : s.block.fault = .noFault) {i : Instr} (hi : i.wellFormed w = true)
    (hc : causeRaised s.block i = .noFault) :
    issue i s = .ok (⟨s.block.written i, s.inputs, some ⟨.noFault, s.block.result i⟩⟩, signedW (s.block.result i)) := by
  rw [issue_of_wellFormed hw hi, command_of_executes h hc]
  exact if_pos rfl

theorem issueAll_cons {i : Instr} {more : List Instr} {t u : State w} {v : Int} {vs : List Int}
    (hi : issue i s = .ok (t, v)) (hmore : issueAll more t = .ok (u, vs)) :
    issueAll (i :: more) s = .ok (u, v :: vs) := by
  simp only [issueAll, hi, hmore]

/-- Commands that write nothing leave the block, and the host reads the function of each element from DATA. -/
theorem issueAll_of_computes (hw : 0 < w) (h : s.block.fault = .noFault) {op : Int → Instr} {f : Int → Int} {xs : List Int}
    (hxs : ∀ x ∈ xs, s.block.Computes op f x) (hfits : ∀ x ∈ xs, dataFits w (f x) = true) :
    ∃ t, issueAll (xs.map op) s = .ok (t, xs.map f) ∧ t.block = s.block := by
  induction xs generalizing s with
  | nil => exact ⟨s, rfl, rfl⟩
  | cons x xs ih =>
    obtain ⟨⟨hwf, hc, hwrites, hresult⟩, hmore⟩ := List.forall_mem_cons.mp hxs
    obtain ⟨hfx, hfmore⟩ := List.forall_mem_cons.mp hfits
    have hx := issue_of_executes hw h hwf hc
    rw [Block.written_of_writesNothing hwrites, hresult, signedW_tcW hw hfx] at hx
    obtain ⟨t, ht, hblock⟩ := ih (s := ⟨s.block, s.inputs, some ⟨.noFault, tcW w (f x)⟩⟩) h hmore hfmore
    exact ⟨t, issueAll_cons hx ht, hblock⟩

end

/-! ### The stages of the host's run on a block that holds an amplitude (R107, R115, R118) -/

/-- The block has no fault and holds the validated amplitude `a`: from here both routes run (R12, R154). -/
structure Block.HoldsAmplitude {w : Nat} (b : Block w) (a : Int) : Prop where
  noFault : b.fault = .noFault
  inv : b.Inv
  ampV : b.ampV = true
  amplitude : b.amplitude = a

section

variable {w : Nat} {s : State w} {a : Int}

/-- The parity is no part of it. -/
theorem Block.HoldsAmplitude.setAmiPar {b : Block w} (hb : b.HoldsAmplitude a) (p : Bool) :
    (b.setAmiPar p).HoldsAmplitude a :=
  ⟨hb.noFault, hb.inv, hb.ampV, hb.amplitude⟩

/-- R63: the encoder starts a new sequence. -/
theorem issue_newseq (hw : Config.ValidWidth w) (hs : s.block.HoldsAmplitude a) :
    ∃ t, issue (.newseq 0) s = .ok (t, signedW (0#w)) ∧ t.block.amiPar = false ∧ t.block.HoldsAmplitude a := by
  have hwf : (Instr.newseq 0).wellFormed w = true := dataFits_bit hw (.inl rfl)
  exact ⟨_, issue_of_executes (by omega) hs.noFault hwf rfl, rfl, hs.setAmiPar false⟩

/-- By induction on the bits: AMI_PAR is the parity from which each command goes on. -/
theorem issueAll_encAmi (hw : Config.ValidWidth w) (hs : s.block.HoldsAmplitude a) {bits : List Int}
    (hbits : ∀ b ∈ bits, b = 0 ∨ b = 1) :
    ∃ t, issueAll (bits.map .encAmi) s = .ok (t, encodeAmiFrom s.block.amiPar bits) ∧ t.block.HoldsAmplitude a := by
  induction bits generalizing s with
  | nil => exact ⟨s, by cases s.block.amiPar <;> rfl, hs⟩
  | cons b bits ih =>
    obtain ⟨hb, hmore⟩ := List.forall_mem_cons.mp hbits
    have hwf : (Instr.encAmi b).wellFormed w = true := dataFits_bit hw hb
    have hsym := dataFits_symbol hw (ami_isSym s.block.amiPar b)
    have hx := issue_of_executes (by omega) hs.noFault hwf (causeRaised_encAmi hb)
    obtain ⟨t, ht, hheld⟩ := ih (hs.setAmiPar (ami s.block.amiPar b).2) hmore
      (s := ⟨s.block.written (.encAmi b), s.inputs, some ⟨.noFault, s.block.result (.encAmi b)⟩⟩)
    rw [Block.result, signedW_tcW (by omega) hsym] at hx
    rw [encodeAmiFrom_cons _ hb]
    exact ⟨t, issueAll_cons hx ht, hheld⟩

/-- ENCODING: after NEWSEQ the symbols are those of the document's line encoder. -/
theorem issueAll_encOf (hw : Config.ValidWidth w) (route : Route) (hs : s.block.HoldsAmplitude a)
    (hp : s.block.amiPar = false) {bits : List Int} (hbits : ∀ b ∈ bits, b = 0 ∨ b = 1) :
    ∃ t, issueAll (bits.map (encOf route)) s = .ok (t, lineEncode route bits) ∧ t.block.HoldsAmplitude a := by
  cases route with
  | ask =>
    have henc := issueAll_encAmi hw hs hbits
    rw [hp] at henc
    exact henc
  | bpsk =>
    obtain ⟨t, ht, hblock⟩ := issueAll_of_computes (by omega) hs.noFault
      (fun b hb => encNrz_computes_nrz hw s.block (hbits b hb)) (fun b hb => dataFits_symbol hw (nrz_isSym (hbits b hb)))
    rw [← encodeNrz_eq_map_nrz hbits] at ht
    exact ⟨t, ht, hblock.symm ▸ hs⟩

/-- The sample of a symbol fits DATA (R83). -/
theorem dataFits_modulateSymbol {b : Block w} {sym : Int} (hw : 0 < w) (hb : b.HoldsAmplitude a)
    (hsym : sym = -1 ∨ sym = 0 ∨ sym = 1) : dataFits w (modulateSymbol sym a) = true := by
  rw [← hb.amplitude, ← signedW_tcW_modulateSymbol hw hb.inv hb.ampV hsym]
  exact dataFits_signedW hw _

theorem dataFits_of_mem_modulate {b : Block w} {symbols : List Int} (hw : 0 < w) (hb : b.HoldsAmplitude a)
    (hsyms : ∀ x ∈ symbols, x = -1 ∨ x = 0 ∨ x = 1) : ∀ r ∈ modulate symbols a, dataFits w r = true := by
  intro r hr
  obtain ⟨x, hx, rfl⟩ := List.mem_map.mp hr
  exact dataFits_modulateSymbol hw hb (hsyms x hx)

/-- MODULATING. -/
theorem issueAll_modOf (hw : Config.ValidWidth w) (route : Route) (hs : s.block.HoldsAmplitude a) {symbols : List Int}
    (hsyms : ∀ x ∈ symbols, x = -1 ∨ x = 0 ∨ x = 1) :
    ∃ t, issueAll (symbols.map (modOf route)) s = .ok (t, modulate symbols a) ∧ t.block.HoldsAmplitude a := by
  have hamp := hs.amplitude
  subst hamp
  obtain ⟨t, ht, hblock⟩ := issueAll_of_computes (by omega) hs.noFault
    (fun x hx => modOf_computes hw route hs.ampV (hsyms x hx))
    (fun x hx => dataFits_modulateSymbol (by omega) hs (hsyms x hx))
  exact ⟨t, ht, hblock.symm ▸ hs⟩

/-- The decision of either route is a symbol (R90, R92). -/
theorem quotientDecision_isSym (ha : 0 < a) (route : Route) (r : Int) :
    quotientDecision route r a = -1 ∨ quotientDecision route r a = 0 ∨ quotientDecision route r a = 1 := by
  cases route with
  | ask =>
    rw [quotientDecision, sliceAskQuotient_eq_sliceAsk ha]
    exact sliceAsk_isSym r a
  | bpsk =>
    rw [quotientDecision, sliceBpskQuotient_eq_sliceBpsk ha]
    exact sliceBpsk_isSym r a

/-- DEMODULATING. -/
theorem issueAll_demOf (hw : Config.ValidWidth w) (route : Route) (hs : s.block.HoldsAmplitude a) {received : List Int}
    (hfits : ∀ r ∈ received, dataFits w r = true) :
    ∃ t, issueAll (received.map (demOf route)) s = .ok (t, demodulate route received a) ∧ t.block.HoldsAmplitude a := by
  have hamp := hs.amplitude
  subst hamp
  have hpos := hs.inv.amplitude_pos hs.ampV
  obtain ⟨t, ht, hblock⟩ := issueAll_of_computes (by omega) hs.noFault
    (fun r hr => demOf_computes route hs.ampV hpos (hfits r hr))
    (fun r _ => dataFits_symbol hw (quotientDecision_isSym hpos route r))
  rw [← demodulate_eq_map] at ht
  exact ⟨t, ht, hblock.symm ▸ hs⟩

/-- DECODING. -/
theorem issueAll_decOf (hw : Config.ValidWidth w) (route : Route) (h : s.block.fault = .noFault) {symbols : List Int}
    (hsyms : ∀ x ∈ symbols, x = -1 ∨ x = 0 ∨ x = 1) :
    ∃ t, issueAll (symbols.map (decOf route)) s = .ok (t, lineDecode route symbols) ∧ t.block = s.block := by
  rw [lineDecode_eq_map route hsyms]
  exact issueAll_of_computes (by omega) h (fun x hx => decOf_computes hw s.block route (hsyms x hx))
    (fun x _ => dataFits_bit hw (decBit_isBit route x))

/-- R107: over any channel that leaves the samples of a block as they are, the stages give back the bits. -/
theorem hostStages_of_clean_channel (hw : Config.ValidWidth w) (route : Route) (hs : s.block.HoldsAmplitude a)
    {bits : List Int} (hbits : ∀ b ∈ bits, b = 0 ∨ b = 1) {chan : List Int → List Int}
    (hchan : ∀ tx, (∀ x ∈ tx, dataFits w x = true) → chan tx = tx) : hostStages chan route bits s = .ok bits := by
  have ha : 0 < a := hs.amplitude ▸ hs.inv.amplitude_pos hs.ampV
  have halphabet : ∀ x ∈ lineEncode route bits, x = -1 ∨ x = 0 ∨ x = 1 := fun _ => lineEncode_alphabet
  have hfits := dataFits_of_mem_modulate (by omega) hs halphabet
  obtain ⟨s₀, hnewseq, hp, hs₀⟩ := issue_newseq hw hs
  obtain ⟨s₁, henc, hs₁⟩ := issueAll_encOf hw route hs₀ hp hbits
  obtain ⟨s₂, hmod, hs₂⟩ := issueAll_modOf hw route hs₁ halphabet
  obtain ⟨s₃, hdem, hs₃⟩ := issueAll_demOf hw route hs₂ hfits
  rw [demodulate_modulate_lineEncode route ha] at hdem
  obtain ⟨s₄, hdec, -⟩ := issueAll_decOf hw route hs₃.noFault halphabet
  rw [lineDecode_lineEncode route hbits] at hdec
  simp only [hostStages, hnewseq, henc, hmod, hchan _ hfits, hdem, hdec, bind, Except.bind, pure, Except.pure]

end

/-- Settles O39: the symbols of a line code survive its own slicer and decode to the bits; on the machine every stage computes its
function and keeps the amplitude. -/
theorem blockRoundTripIsExact : Obligations.BlockRoundTripIsExact :=
  ⟨fun _ _ hbits ha => ⟨lineDecode_demodulate_modulate .ask ha hbits, lineDecode_demodulate_modulate .bpsk ha hbits⟩,
    fun _ route _ _ hw h hs hv hbits => hostStages_of_clean_channel hw route ⟨h, hs, hv, rfl⟩ hbits fun _ _ => rfl⟩

end Sys2Proof.Machine
end

section
/-! The host's text codec: eight bits a character, most significant first (R110, R111). -/

namespace Sys2Proof.Machine

/-! ### One character -/

theorem codePointBits_length (p : Nat) : (codePointBits p).length = 8 := rfl

theorem codePointBits_isBit {p : Nat} {b : Int} (hb : b ∈ codePointBits p) : b = 0 ∨ b = 1 := by
  simp only [codePointBits, List.map_cons, List.map_nil, List.mem_cons, List.not_mem_nil, or_false] at hb
  omega

/-- The remainder `p / 2^k % 2` is bit `k` of `p`. -/
theorem natCast_div_two_pow_mod_two (p k : Nat) : ((p / 2 ^ k % 2 : Nat) : Int) = if p.testBit k then 1 else 0 := by
  rw [Nat.testBit_eq_decide_div_mod_eq]
  simp only [decide_eq_true_eq]
  split <;> omega

theorem codePointBits_getElem? (p : Nat) {j : Nat} (hj : j < 8) :
    (codePointBits p)[j]? = some (if p.testBit (7 - j) then 1 else 0) := by
  rw [← natCast_div_two_pow_mod_two]
  interval_cases j
  iterate 7 rfl
  exact congrArg (fun q : Nat => some ((q % 2 : Nat) : Int)) (Nat.div_one p).symm

/-- The value of eight bits, most significant first. -/
def groupValue (b7 b6 b5 b4 b3 b2 b1 b0 : Int) : Nat :=
  (128 * b7 + 64 * b6 + 32 * b5 + 16 * b4 + 8 * b3 + 4 * b2 + 2 * b1 + b0).toNat

theorem textDecode_group (b7 b6 b5 b4 b3 b2 b1 b0 : Int) (rest : List Int) :
    textDecode (b7 :: b6 :: b5 :: b4 :: b3 :: b2 :: b1 :: b0 :: rest) =
      Char.ofNat (groupValue b7 b6 b5 b4 b3 b2 b1 b0) :: textDecode rest := rfl

/-- A number below 256 is the value of its eight bits: each quotient is half the one before it. -/
theorem groupValue_of_bits {p : Nat} (hp : p ≤ 255) :
    groupValue (p / 128 % 2 : Nat) (p / 64 % 2 : Nat) (p / 32 % 2 : Nat) (p / 16 % 2 : Nat) (p / 8 % 2 : Nat)
      (p / 4 % 2 : Nat) (p / 2 % 2 : Nat) (p % 2 : Nat) = p := by
  have h4 : p / 4 = p / 2 / 2 := (Nat.div_div_eq_div_mul p 2 2).symm
  have h8 : p / 8 = p / 4 / 2 := (Nat.div_div_eq_div_mul p 4 2).symm
  have h16 : p / 16 = p / 8 / 2 := (Nat.div_div_eq_div_mul p 8 2).symm
  have h32 : p / 32 = p / 16 / 2 := (Nat.div_div_eq_div_mul p 16 2).symm
  have h64 : p / 64 = p / 32 / 2 := (Nat.div_div_eq_div_mul p 32 2).symm
  have h128 : p / 128 = p / 64 / 2 := (Nat.div_div_eq_div_mul p 64 2).symm
  rw [groupValue, h128, h64, h32, h16, h8, h4]
  omega

/-- R111: decoding the bits of a code point. -/
theorem textDecode_codePointBits_append {c : Char} (hc : c.toNat ≤ 255) (rest : List Int) :
    textDecode (codePointBits c.toNat ++ rest) = c :: textDecode rest := by
  refine (textDecode_group _ _ _ _ _ _ _ _ rest).trans ?_
  rw [groupValue_of_bits hc, Char.ofNat_toNat]

/-- R110: the bits of the value of a group are the group. -/
theorem codePointBits_groupValue {b7 b6 b5 b4 b3 b2 b1 b0 : Int}
    (h : ∀ b ∈ [b7, b6, b5, b4, b3, b2, b1, b0], b = 0 ∨ b = 1) :
    groupValue b7 b6 b5 b4 b3 b2 b1 b0 ≤ 255 ∧
      codePointBits (groupValue b7 b6 b5 b4 b3 b2 b1 b0) = [b7, b6, b5, b4, b3, b2, b1, b0] := by
  have hrange : ∀ b ∈ [b7, b6, b5, b4, b3, b2, b1, b0], 0 ≤ b ∧ b ≤ 1 := by
    intro b hb
    obtain rfl | rfl := h b hb <;> decide
  clear h
  simp only [List.mem_cons, forall_eq_or_imp, List.not_mem_nil, false_implies, implies_true, and_true] at hrange
  simp only [codePointBits, groupValue, List.map_cons, List.map_nil, List.cons.injEq, and_true]
  omega

/-! ### Texts -/

theorem textEncode_of_le {text : List Char} (h : ∀ c ∈ text, c.toNat ≤ 255) :
    textEncode text = .ok (text.flatMap (codePointBits ·.toNat)) := by
  induction text with
  | nil => rfl
  | cons c cs ih =>
    obtain ⟨hc, hmore⟩ := List.forall_mem_cons.mp h
    rw [textEncode, if_pos hc, ih hmore, List.flatMap_cons]

theorem textEncode_of_gt {text : List Char} (h : ∃ c ∈ text, 255 < c.toNat) : textEncode text = .error .encoding := by
  induction text with
  | nil => simp at h
  | cons c cs ih =>
    rw [textEncode]
    split
    · next hc =>
      obtain ⟨d, hd, hgt⟩ := h
      have hmore : d ∈ cs := (List.mem_cons.mp hd).resolve_left (by rintro rfl; omega)
      rw [ih ⟨d, hmore, hgt⟩]
    · rfl

theorem flatMap_codePointBits_length (text : List Char) :
    (text.flatMap (codePointBits ·.toNat)).length = 8 * text.length := by
  rw [List.length_flatMap, List.map_congr_left (fun c _ => codePointBits_length c.toNat), List.map_const', List.sum_replicate,
    smul_eq_mul, mul_comm]

theorem flatMap_codePointBits_isBit {text : List Char} {b : Int} (hb : b ∈ text.flatMap (codePointBits ·.toNat)) :
    b = 0 ∨ b = 1 := by
  obtain ⟨c, -, hb⟩ := List.mem_flatMap.mp hb
  exact codePointBits_isBit hb

/-- By induction on the text: a character puts eight bits before those of the rest. -/
theorem flatMap_codePointBits_getElem? {text : List Char} {i : Nat} {c : Char} (hi : text[i]? = some c) {j : Nat} (hj : j < 8) :
    (text.flatMap (codePointBits ·.toNat))[8 * i + j]? = some (if c.toNat.testBit (7 - j) then 1 else 0) := by
  induction text generalizing i with
  | nil => simp at hi
  | cons d ds ih =>
    rw [List.flatMap_cons]
    cases i with
    | zero =>
      obtain rfl : d = c := Option.some.inj hi
      rw [Nat.mul_zero, Nat.zero_add, List.getElem?_append_left hj, codePointBits_getElem? _ hj]
    | succ i =>
      have hpos : 8 * (i + 1) + j - 8 = 8 * i + j := by omega
      rw [List.getElem?_append_right (by rw [codePointBits_length]; omega), codePointBits_length, hpos]
      exact ih hi

theorem textDecode_of_length_lt {bits : List Int} (h : bits.length < 8) : textDecode bits = [] := by
  rw [textDecode]
  rintro b7 b6 b5 b4 b3 b2 b1 b0 rest rfl
  simp only [List.length_cons] at h
  omega

/-- By induction on the text: the decoder takes one group of eight for each character, and leaves the tail. -/
theorem textDecode_flatMap_append {text : List Char} (h : ∀ c ∈ text, c.toNat ≤ 255) {tail : List Int} (htail : tail.length < 8) :
    textDecode (text.flatMap (codePointBits ·.toNat) ++ tail) = text := by
  induction text with
  | nil => exact textDecode_of_length_lt htail
  | cons c cs ih =>
    obtain ⟨hc, hmore⟩ := List.forall_mem_cons.mp h
    rw [List.flatMap_cons, List.append_assoc, textDecode_codePointBits_append hc, ih hmore]

theorem textDecode_flatMap {text : List Char} (h : ∀ c ∈ text, c.toNat ≤ 255) :
    textDecode (text.flatMap (codePointBits ·.toNat)) = text := by
  simpa using textDecode_flatMap_append h (tail := []) (by decide)

theorem toNat_ofNat_of_le {n : Nat} (hn : n ≤ 255) : (Char.ofNat n).toNat = n :=
  (Char.toNat_ofNat n).trans (if_pos (.inl (by omega)))

/-- By the decoder's recursion: a whole group is encoded again, and what is short of one is dropped. -/
theorem textEncode_textDecode {bits : List Int} (h : ∀ b ∈ bits, b = 0 ∨ b = 1) :
    textEncode (textDecode bits) = .ok (bits.take (8 * (bits.length / 8))) := by
  induction bits using textDecode.induct with
  | case1 b7 b6 b5 b4 b3 b2 b1 b0 rest ih =>
    have hsplit : ∀ b ∈ [b7, b6, b5, b4, b3, b2, b1, b0] ++ rest, b = 0 ∨ b = 1 := h
    obtain ⟨hgroup, hrest⟩ := List.forall_mem_append.mp hsplit
    obtain ⟨hle, hbits⟩ := codePointBits_groupValue hgroup
    have hlen : 8 * ((b7 :: b6 :: b5 :: b4 :: b3 :: b2 :: b1 :: b0 :: rest).length / 8) = 8 * (rest.length / 8) + 8 := by
      simp only [List.length_cons]
      omega
    rw [textDecode_group, textEncode, toNat_ofNat_of_le hle, if_pos hle, ih hrest, hbits, hlen]
    rfl
  | case2 bits hshort =>
    have hlen : bits.length < 8 := by
      match bits with
      | b7 :: b6 :: b5 :: b4 :: b3 :: b2 :: b1 :: b0 :: rest => exact absurd rfl (hshort _ _ _ _ _ _ _ _ rest)
      | [] | [_] | [_, _] | [_, _, _] | [_, _, _, _] | [_, _, _, _, _] | [_, _, _, _, _, _] | [_, _, _, _, _, _, _] => simp
    rw [textDecode_of_length_lt hlen, Nat.div_eq_of_lt hlen]
    rfl

/-- Settles O55: both directions go group by group. -/
theorem textCodecRoundTrip : Obligations.TextCodecRoundTrip :=
  ⟨fun text h => ⟨_, textEncode_of_le h, flatMap_codePointBits_length text, fun _ => flatMap_codePointBits_isBit,
      fun _ _ _ hi => flatMap_codePointBits_getElem? hi, fun _ => textDecode_flatMap_append h⟩,
    fun _ => textEncode_textDecode, fun _ => textEncode_of_gt⟩

end Sys2Proof.Machine
end

section
/-! The error analyser (R114). -/

namespace Sys2Proof.Machine

/-- 0 where an original element and the recovered one agree, 1 where they differ, over the shorter length. -/
def bitErrors (original recovered : List Int) : List Nat := List.zipWith (fun a b => if a = b then 0 else 1) original recovered

theorem ber_nil (recovered : List Int) : ber [] recovered = 0 := rfl

theorem ber_of_ne_nil {original : List Int} (h : original ≠ []) (recovered : List Int) :
    ber original recovered = (bitErrors original recovered).sum / (original.length : ℚ) := if_neg h

/-- Each original element counts at most once, however long the other sequence is. -/
theorem bitErrors_sum_le (original recovered : List Int) : (bitErrors original recovered).sum ≤ original.length := by
  induction original generalizing recovered with
  | nil => rfl
  | cons a as ih =>
    cases recovered with
    | nil => exact Nat.zero_le _
    | cons b bs =>
      have hmore := ih bs
      rw [bitErrors, List.zipWith_cons_cons, List.sum_cons, ← bitErrors, List.length_cons]
      split <;> omega

theorem ber_nonneg (original recovered : List Int) : 0 ≤ ber original recovered := by
  unfold ber
  split
  · rfl
  · positivity

theorem ber_le_one (original recovered : List Int) : ber original recovered ≤ 1 := by
  by_cases h : original = []
  · rw [h, ber_nil]
    exact zero_le_one
  · rw [ber_of_ne_nil h]
    exact div_le_one_of_le₀ (Nat.cast_le.mpr (bitErrors_sum_le original recovered)) (Nat.cast_nonneg _)

theorem ber_self (bits : List Int) : ber bits bits = 0 := by
  obtain rfl | h := eq_or_ne bits []
  · exact ber_nil []
  · simp [ber_of_ne_nil h, bitErrors, List.zipWith_self]

/-- No integer is its own complement. -/
theorem ber_complement {bits : List Int} (h : bits ≠ []) : ber bits (bits.map (1 - ·)) = 1 := by
  have hne : ∀ b : Int, b ≠ 1 - b := by omega
  have hpos : (bits.length : ℚ) ≠ 0 := Nat.cast_ne_zero.mpr (List.length_pos_iff.mpr h).ne'
  have hall : bitErrors bits (bits.map (1 - ·)) = List.replicate bits.length 1 := by
    rw [bitErrors, List.zipWith_map_right, List.zipWith_self]
    simp only [hne, if_false, List.map_const']
  rw [ber_of_ne_nil h, hall, List.sum_replicate, smul_eq_mul, mul_one, div_self hpos]

/-- Settles O56: the errors are at most as many as the bits, none against itself, and all against the complement. -/
theorem berIsWithinBounds : Obligations.BerIsWithinBounds :=
  ⟨fun a b _ => ⟨ber_nonneg a b, ber_le_one a b⟩, ber_self, fun _ => ber_complement, ber_nil⟩

end Sys2Proof.Machine
end

section
/-! One run of the host on the machine: its three errors, and the run without noise (R118 to R120). -/

namespace Sys2Proof.Machine

/-! ### The channel without noise (R119) -/

section

variable {w : Nat}

theorem noiseOf_zero (draws : Nat → ℝ) (n : Nat) : noiseOf 0 draws n = List.replicate n 0 := by
  simp [noiseOf]

/-- A quantiser that is the identity on samples leaves a signal of samples without noise as it is. -/
theorem channel_noiseless {quantise : ℝ → Sample w} (hquantise : ∀ v : Sample w, quantise v.val = v) (draws : Nat → ℝ)
    {tx : List Int} (htx : ∀ x ∈ tx, dataFits w x = true) : channel quantise (noiseOf 0 draws tx.length) tx = tx := by
  rw [noiseOf_zero]
  induction tx with
  | nil => rfl
  | cons x xs ih =>
    obtain ⟨hx, hmore⟩ := List.forall_mem_cons.mp htx
    have hhead : (quantise ((x : ℝ) + 0)).val = x := by
      rw [add_zero]
      exact congrArg Subtype.val (hquantise ⟨x, (dataFits_iff x).mp hx⟩)
    exact congrArg₂ List.cons hhead (ih hmore)

/-! ### The start of a run: reset and SETAMP (R62, R151) -/

theorem drive_reset (s : State w) : drive ⟨true, false, 0⟩ s = .ok ⟨Block.reset w, s.inputs, none⟩ := by
  rw [drive, stepAt_of_rst rfl rfl]

/-- A recognised selector has a route (R42). -/
theorem routeOfSel_of_recognised {sel : BitVec 2} (h : sel = 0b00#2 ∨ sel = 0b01#2) : ∃ route, routeOfSel sel = some route := by
  obtain rfl | rfl := h
  · exact ⟨.ask, rfl⟩
  · exact ⟨.bpsk, rfl⟩

theorem routeOfSel_of_unrecognised {sel : BitVec 2} (h : sel = 0b10#2 ∨ sel = 0b11#2) : routeOfSel sel = none := by
  obtain rfl | rfl := h <;> rfl

/-- The run of a recognised selector after its reset (R118). -/
theorem hostRun_of_route {sel : BitVec 2} {route : Route} (h : routeOfSel sel = some route) (chan : List Int → List Int)
    (text : List Char) (amplitude : Int) (s : State w) :
    hostRun chan text amplitude sel s = (do
      let bits ← textEncode text
      let (t, _) ← issue (.setamp amplitude) ⟨Block.reset w, s.inputs, none⟩
      let rbits ← hostStages chan route bits t
      return (textDecode rbits, ber bits rbits)) := by
  rw [hostRun, h]
  exact congrArg (Except.bind · _) (drive_reset s)

variable {s : State w} {a : Int}

theorem issue_setamp (hw : 0 < w) (h : s.block.fault = .noFault) (hpos : 1 ≤ a) (hmax : a ≤ Config.smax w) :
    ∃ t, issue (.setamp a) s = .ok (t, signedW (0#w)) ∧ t.block.HoldsAmplitude a := by
  have hfits := dataFits_of_pos hpos hmax
  have hwf : (Instr.setamp a).wellFormed w = true := hfits
  have hc : causeRaised s.block (.setamp a) = .noFault := if_neg (by omega)
  have hloaded : (s.block.setAmp (tcW w a)).amplitude = a := signedW_tcW hw hfits
  exact ⟨_, issue_of_executes hw h hwf hc, h, .inr ⟨rfl, hloaded.symm ▸ ⟨hpos, hmax⟩⟩, rfl, hloaded⟩

theorem issue_of_cause (hw : 0 < w) (h : s.block.fault = .noFault) {i : Instr} (hi : i.wellFormed w = true)
    (hc : causeRaised s.block i ≠ .noFault) : issue i s = .error (.block (causeRaised s.block i)) := by
  rw [issue_of_wellFormed hw hi, command_of_cause h hc]
  exact if_neg hc

theorem issue_setamp_of_nonpos (hw : Config.ValidWidth w) (h : s.block.fault = .noFault) (hmin : Config.smin w ≤ a) (ha : a ≤ 0) :
    issue (.setamp a) s = .error (.block .invalidParameter) := by
  obtain ⟨-, hzero⟩ := (dataFits_iff 0).mp (dataFits_bit hw (.inl rfl))
  have hwf : (Instr.setamp a).wellFormed w = true := (dataFits_iff a).mpr ⟨hmin, ha.trans hzero⟩
  have hc : causeRaised s.block (.setamp a) = .invalidParameter := if_pos ha
  rw [issue_of_cause (by omega) h hwf (hc ▸ nofun), hc]

end

/-- Settles O57: the text is encoded, the stages give the bits back, and these decode to the text with no error among them. -/
theorem noiseFreeRunRecoversTheText : Obligations.NoiseFreeRunRecoversTheText := by
  intro w quantise draws text amplitude sel s hw hquantise htext hpos hmax hsel
  obtain ⟨route, hroute⟩ := routeOfSel_of_recognised hsel
  obtain ⟨t, hsetamp, ht⟩ := issue_setamp (s := ⟨Block.reset w, s.inputs, none⟩) (by omega) rfl hpos hmax
  have hstages := hostStages_of_clean_channel hw route ht (fun _ => flatMap_codePointBits_isBit (text := text))
    (fun _ => channel_noiseless hquantise draws)
  rw [hostRun_of_route hroute, textEncode_of_le htext]
  simp only [bind, Except.bind, hsetamp, hstages, pure, Except.pure, textDecode_flatMap htext, ber_self]

/-- Settles O58: each error ends the run where the host meets it: at the selector, at the text codec, at SETAMP. -/
theorem hostRunReportsTheErrors : Obligations.HostRunReportsTheErrors := by
  refine fun w chan text amplitude sel s hw => ⟨fun hsel => ?_, fun hsel htext => ?_, fun hsel htext hmin ha => ?_⟩
  · rw [hostRun, routeOfSel_of_unrecognised hsel]
  · obtain ⟨route, hroute⟩ := routeOfSel_of_recognised hsel
    rw [hostRun_of_route hroute, textEncode_of_gt htext]
    rfl
  · obtain ⟨route, hroute⟩ := routeOfSel_of_recognised hsel
    rw [hostRun_of_route hroute, textEncode_of_le htext]
    have hsetamp := issue_setamp_of_nonpos (s := ⟨Block.reset w, s.inputs, none⟩) hw rfl hmin ha
    simp only [bind, Except.bind, hsetamp]

end Sys2Proof.Machine
end

section
/-! The two orders of the host's stages (R118): ENC alone writes the block, and only the parity, so where the block holds an
amplitude each element goes the same way in both orders; where it holds none, both end at the first MOD. -/

namespace Sys2Proof.Machine

/-! ### One element, on either route -/

/-- The symbol of a bit on a route, and the next parity: ENC.NRZ leaves it (R71, R73). -/
def encodeBit : Route → Bool → Int → Int × Bool
  | .ask, p, bit => ami p bit
  | .bpsk, p, bit => (nrz bit, p)

/-- The symbols of a bit sequence that goes on from the parity `p`. -/
def encodeFrom (route : Route) : Bool → List Int → List Int
  | _, [] => []
  | p, bit :: bits => (encodeBit route p bit).1 :: encodeFrom route (encodeBit route p bit).2 bits

/-- The block's decision on a sample (R94). -/
def slice : Route → Int → Int → Int
  | .ask => sliceAsk
  | .bpsk => sliceBpsk

/-- The sample of a symbol as the host reads it; a product that no DATA field holds is wrapped (log 6). -/
def sampleOf (w : Nat) (a sym : Int) : Int := signedW (tcW w (modulateSymbol sym a))

/-- What a symbol becomes through MOD, the channel, DEM and DEC. -/
def receivedBit (w : Nat) (link : Int → Int) (route : Route) (a sym : Int) : Int :=
  decBit route (slice route (link (sampleOf w a sym)) a)

theorem encodeBit_isSym (route : Route) (p : Bool) {bit : Int} (h : bit = 0 ∨ bit = 1) :
    (encodeBit route p bit).1 = -1 ∨ (encodeBit route p bit).1 = 0 ∨ (encodeBit route p bit).1 = 1 := by
  cases route with
  | ask => exact ami_isSym p bit
  | bpsk => exact nrz_isSym h

theorem encodeFrom_isSym (route : Route) (p : Bool) {bits : List Int} (hbits : ∀ b ∈ bits, b = 0 ∨ b = 1) :
    ∀ x ∈ encodeFrom route p bits, x = -1 ∨ x = 0 ∨ x = 1 := by
  induction bits generalizing p with
  | nil => exact List.forall_mem_nil _
  | cons bit bits ih =>
    obtain ⟨hbit, hmore⟩ := List.forall_mem_cons.mp hbits
    exact List.forall_mem_cons.mpr ⟨encodeBit_isSym route p hbit, ih _ hmore⟩

theorem slice_isSym (route : Route) (r a : Int) : slice route r a = -1 ∨ slice route r a = 0 ∨ slice route r a = 1 := by
  cases route with
  | ask => exact sliceAsk_isSym r a
  | bpsk => exact sliceBpsk_isSym r a

section

variable {w : Nat} {b : Block w} {s : State w}

/-! ### The commands that write the parity: ENC on either route, and NEWSEQ (R63, R70, R72) -/

theorem causeRaised_encOf (b : Block w) (route : Route) {bit : Int} (h : bit = 0 ∨ bit = 1) :
    causeRaised b (encOf route bit) = .noFault := by
  cases route with
  | ask => exact causeRaised_encAmi h
  | bpsk => exact causeRaised_encNrz h

theorem encOf_wellFormed (route : Route) (bit : Int) : (encOf route bit).wellFormed w = dataFits w bit := by
  cases route <;> rfl

theorem written_encOf (b : Block w) (route : Route) (bit : Int) :
    b.written (encOf route bit) = b.setAmiPar (encodeBit route b.amiPar bit).2 := by
  cases route <;> rfl

theorem result_encOf (b : Block w) (route : Route) (bit : Int) :
    b.result (encOf route bit) = tcW w (encodeBit route b.amiPar bit).1 := by
  cases route <;> rfl

theorem issue_encOf (hw : Config.ValidWidth w) (route : Route) (h : s.block.fault = .noFault) {bit : Int}
    (hbit : bit = 0 ∨ bit = 1) :
    ∃ t, issue (encOf route bit) s = .ok (t, (encodeBit route s.block.amiPar bit).1) ∧
      t.block = s.block.setAmiPar (encodeBit route s.block.amiPar bit).2 := by
  have hwf : (encOf route bit).wellFormed w = true := (encOf_wellFormed route bit).trans (dataFits_bit hw hbit)
  have hissue := issue_of_executes (by omega) h hwf (causeRaised_encOf s.block route hbit)
  rw [result_encOf, signedW_tcW (by omega) (dataFits_symbol hw (encodeBit_isSym route _ hbit))] at hissue
  exact ⟨_, hissue, written_encOf s.block route bit⟩

/-- By induction on the bits: each command goes on from the parity the one before it left. -/
theorem issueAll_encOf_from (hw : Config.ValidWidth w) (route : Route) (h : s.block.fault = .noFault) {bits : List Int}
    (hbits : ∀ b ∈ bits, b = 0 ∨ b = 1) :
    ∃ t p, issueAll (bits.map (encOf route)) s = .ok (t, encodeFrom route s.block.amiPar bits) ∧
      t.block = s.block.setAmiPar p := by
  induction bits generalizing s with
  | nil => exact ⟨s, s.block.amiPar, rfl, rfl⟩
  | cons bit bits ih =>
    obtain ⟨hbit, hmore⟩ := List.forall_mem_cons.mp hbits
    obtain ⟨t, ht, htb⟩ := issue_encOf hw route h hbit
    obtain ⟨u, p, hu, hub⟩ := ih (s := t) (by rw [htb]; exact h) hmore
    rw [htb] at hu hub
    exact ⟨u, p, issueAll_cons ht hu, hub⟩

theorem newseq_wellFormed (hw : Config.ValidWidth w) : (Instr.newseq 0).wellFormed w = true := dataFits_bit hw (.inl rfl)

/-- R63: NEWSEQ needs no amplitude. -/
theorem issue_newseq_of_noFault (hw : Config.ValidWidth w) (h : s.block.fault = .noFault) :
    ∃ t v, issue (.newseq 0) s = .ok (t, v) ∧ t.block.fault = .noFault :=
  ⟨_, _, issue_of_executes (by omega) h (newseq_wellFormed hw) rfl, h⟩

/-! ### The commands that write nothing, with any amplitude (R81, R91, R101) -/

/-- The command computes `f x`, and the host can read it from DATA. -/
structure Block.Reads (b : Block w) (op : Int → Instr) (f : Int → Int) (x : Int) : Prop extends b.Computes op f x where
  fits : dataFits w (f x) = true

theorem issue_of_reads (hw : 0 < w) (h : s.block.fault = .noFault) {op : Int → Instr} {f : Int → Int} {x : Int}
    (hx : s.block.Reads op f x) : ∃ t, issue (op x) s = .ok (t, f x) ∧ t.block = s.block := by
  have hissue := issue_of_executes hw h hx.wellFormed hx.executes
  rw [hx.result, signedW_tcW hw hx.fits] at hissue
  exact ⟨_, hissue, Block.written_of_writesNothing hx.writesNothing⟩

theorem issueAll_of_reads (hw : 0 < w) (h : s.block.fault = .noFault) {op : Int → Instr} {f : Int → Int} (xs : List Int)
    (hxs : ∀ x ∈ xs, s.block.Reads op f x) : ∃ t, issueAll (xs.map op) s = .ok (t, xs.map f) ∧ t.block = s.block :=
  issueAll_of_computes hw h (fun x hx => (hxs x hx).toComputes) (fun x hx => (hxs x hx).fits)

/-- The block runs every stage with the amplitude `a`, which need not be one that SETAMP accepts. -/
structure Block.RunsWith (b : Block w) (a : Int) : Prop where
  noFault : b.fault = .noFault
  ampV : b.ampV = true
  amplitude : b.amplitude = a

theorem Block.RunsWith.setAmiPar {a : Int} (hb : b.RunsWith a) (p : Bool) : (b.setAmiPar p).RunsWith a :=
  ⟨hb.noFault, hb.ampV, hb.amplitude⟩

theorem modOf_reads_sampleOf {a : Int} (hw : Config.ValidWidth w) (route : Route) (hb : b.RunsWith a) {sym : Int}
    (hsym : sym = -1 ∨ sym = 0 ∨ sym = 1) : b.Reads (modOf route) (sampleOf w a) sym where
  wellFormed := (modOf_wellFormed route sym).trans (dataFits_symbol hw hsym)
  executes := causeRaised_modOf route hb.ampV hsym
  writesNothing := modOf_writesNothing route sym
  result := by rw [result_modOf, hb.amplitude, sampleOf, tcW_signedW]
  fits := dataFits_signedW (by omega) _

theorem demOf_reads_slice {a : Int} (hw : Config.ValidWidth w) (route : Route) (hb : b.RunsWith a) {r : Int}
    (hr : dataFits w r = true) : b.Reads (demOf route) (slice route · a) r where
  wellFormed := (demOf_wellFormed route r).trans hr
  executes := demOf_executes route r hb.ampV
  writesNothing := demOf_writesNothing route r
  result := by rw [← hb.amplitude]; cases route <;> rfl
  fits := dataFits_symbol hw (slice_isSym route r a)

theorem decOf_reads_decBit (hw : Config.ValidWidth w) (b : Block w) (route : Route) {sym : Int}
    (hsym : sym = -1 ∨ sym = 0 ∨ sym = 1) : b.Reads (decOf route) (decBit route) sym :=
  ⟨decOf_computes hw b route hsym, dataFits_bit hw (decBit_isBit route sym)⟩

/-! ### Commands that end the run (R136, R154) -/

theorem issue_of_faulted (hw : 0 < w) (h : s.block.fault ≠ .noFault) {i : Instr} (hi : i.wellFormed w = true) :
    issue i s = .error (.block s.block.fault) := by
  obtain ⟨-, herr⟩ := command_of_faulted h i
  rw [issue_of_wellFormed hw hi, herr, if_neg h]

theorem issue_modOf_without_amplitude (hw : Config.ValidWidth w) (route : Route) (h : s.block.fault = .noFault)
    (hv : s.block.ampV = false) {sym : Int} (hsym : sym = -1 ∨ sym = 0 ∨ sym = 1) :
    issue (modOf route sym) s = .error (.block .invalidParameter) := by
  have hwf : (modOf route sym).wellFormed w = true := (modOf_wellFormed route sym).trans (dataFits_symbol hw hsym)
  have hc : causeRaised s.block (modOf route sym) = .invalidParameter := by cases route <;> exact if_pos (.inl hv)
  rw [issue_of_cause (by omega) h hwf (hc ▸ nofun), hc]

theorem issueAll_map_cons_error {op : Int → Instr} {x : Int} {e : HostError} (hx : issue (op x) s = .error e) (xs : List Int) :
    issueAll ((x :: xs).map op) s = .error e := by
  simp only [List.map_cons, issueAll, hx]

/-! ### Stage by stage -/

variable {t : State w} {v : Int} {bits : List Int}

/-- With an amplitude every command executes, and each stage hands its results to the next. -/
theorem hostStages_with_amplitude (hw : Config.ValidWidth w) {link : Int → Int} (hlink : ∀ x, dataFits w (link x) = true)
    (route : Route) (hn : issue (.newseq 0) s = .ok (t, v)) {a : Int} (ht : t.block.RunsWith a)
    (hbits : ∀ b ∈ bits, b = 0 ∨ b = 1) :
    hostStages (List.map link) route bits s =
      .ok ((encodeFrom route t.block.amiPar bits).map (receivedBit w link route a)) := by
  have hpos : 0 < w := by omega
  have hsyms := encodeFrom_isSym route t.block.amiPar hbits
  obtain ⟨t₁, p, henc, hb₁⟩ := issueAll_encOf_from hw route ht.noFault hbits
  generalize encodeFrom route t.block.amiPar bits = symbols at henc hsyms ⊢
  have ht₁ : t₁.block.RunsWith a := hb₁ ▸ ht.setAmiPar p
  obtain ⟨t₂, hmod, hb₂⟩ := issueAll_of_reads hpos ht₁.noFault symbols fun x hx =>
    modOf_reads_sampleOf hw route ht₁ (hsyms x hx)
  have ht₂ : t₂.block.RunsWith a := hb₂ ▸ ht₁
  obtain ⟨t₃, hdem, hb₃⟩ := issueAll_of_reads hpos ht₂.noFault ((symbols.map (sampleOf w a)).map link)
    (List.forall_mem_map.mpr fun x _ => demOf_reads_slice hw route ht₂ (hlink x))
  have ht₃ : t₃.block.RunsWith a := hb₃ ▸ ht₂
  obtain ⟨t₄, hdec, -⟩ := issueAll_of_reads hpos ht₃.noFault (((symbols.map (sampleOf w a)).map link).map (slice route · a))
    (List.forall_mem_map.mpr fun x _ => decOf_reads_decBit hw t₃.block route (slice_isSym route x a))
  simp only [hostStages, hn, henc, hmod, hdem, hdec, bind, Except.bind, pure, Except.pure]
  rw [List.map_map, List.map_map, List.map_map]
  rfl

theorem hostStages_without_amplitude (hw : Config.ValidWidth w) (chan : List Int → List Int) (route : Route)
    (hn : issue (.newseq 0) s = .ok (t, v)) (ht : t.block.fault = .noFault) (hv : t.block.ampV = false) {bit : Int}
    (hbits : ∀ b ∈ bit :: bits, b = 0 ∨ b = 1) :
    hostStages chan route (bit :: bits) s = .error (.block .invalidParameter) := by
  obtain ⟨t₁, p, henc, hb₁⟩ := issueAll_encOf_from hw route ht hbits
  have hsym := encodeFrom_isSym route t.block.amiPar hbits _ List.mem_cons_self
  rw [encodeFrom] at henc
  have hmod := issueAll_map_cons_error (issue_modOf_without_amplitude (s := t₁) hw route (by rw [hb₁]; exact ht)
    (by rw [hb₁]; exact hv) hsym) (encodeFrom route (encodeBit route t.block.amiPar bit).2 bits)
  simp only [hostStages, hn, henc, hmod, bind, Except.bind]

/-! ### Element by element -/

/-- By induction on the bits: the four commands of an element leave the block with its next parity. -/
theorem hostElements_with_amplitude (hw : Config.ValidWidth w) {link : Int → Int} (hlink : ∀ x, dataFits w (link x) = true)
    (route : Route) {a : Int} (hs : s.block.RunsWith a) (hbits : ∀ b ∈ bits, b = 0 ∨ b = 1) :
    hostElements link route bits s = .ok ((encodeFrom route s.block.amiPar bits).map (receivedBit w link route a)) := by
  have hpos : 0 < w := by omega
  induction bits generalizing s with
  | nil => rfl
  | cons bit bits ih =>
    obtain ⟨hbit, hmore⟩ := List.forall_mem_cons.mp hbits
    have hsym := encodeBit_isSym route s.block.amiPar hbit
    obtain ⟨t₁, henc, hb₁⟩ := issue_encOf hw route hs.noFault hbit
    rw [encodeFrom]
    generalize (encodeBit route s.block.amiPar bit).1 = symbol at henc hsym ⊢
    have ht₁ : t₁.block.RunsWith a := hb₁ ▸ hs.setAmiPar _
    obtain ⟨t₂, hmod, hb₂⟩ := issue_of_reads hpos ht₁.noFault (modOf_reads_sampleOf hw route ht₁ hsym)
    have ht₂ : t₂.block.RunsWith a := hb₂ ▸ ht₁
    obtain ⟨t₃, hdem, hb₃⟩ := issue_of_reads hpos ht₂.noFault (demOf_reads_slice hw route ht₂ (hlink (sampleOf w a symbol)))
    have ht₃ : t₃.block.RunsWith a := hb₃ ▸ ht₂
    obtain ⟨t₄, hdec, hb₄⟩ := issue_of_reads hpos ht₃.noFault
      (decOf_reads_decBit hw t₃.block route (slice_isSym route (link (sampleOf w a symbol)) a))
    have ht₄ : t₄.block.RunsWith a := hb₄ ▸ ht₃
    have hrest := ih ht₄ hmore
    rw [hb₄, hb₃, hb₂, hb₁, Block.setAmiPar_amiPar] at hrest
    simp only [hostElements, henc, hmod, hdem, hdec, hrest, bind, Except.bind, pure, Except.pure]
    rfl

theorem hostElements_without_amplitude (hw : Config.ValidWidth w) (link : Int → Int) (route : Route)
    (h : s.block.fault = .noFault) (hv : s.block.ampV = false) {bit : Int} (hbit : bit = 0 ∨ bit = 1) :
    hostElements link route (bit :: bits) s = .error (.block .invalidParameter) := by
  obtain ⟨t₁, henc, hb₁⟩ := issue_encOf hw route h hbit
  have hmod := issue_modOf_without_amplitude (s := t₁) hw route (by rw [hb₁]; exact h) (by rw [hb₁]; exact hv)
    (encodeBit_isSym route s.block.amiPar hbit)
  simp only [hostElements, henc, hmod, bind, Except.bind]

theorem hostInterleaved_of_newseq (hn : issue (.newseq 0) s = .ok (t, v)) (link : Int → Int) (route : Route) :
    hostInterleaved link route bits s = hostElements link route bits t := by
  simp only [hostInterleaved, hn, bind, Except.bind]

/-- Both orders begin with NEWSEQ, whose error ends both. -/
theorem hostInterleaved_eq_hostStages_of_error {e : HostError} (hn : issue (.newseq 0) s = .error e) (link : Int → Int)
    (chan : List Int → List Int) (route : Route) : hostInterleaved link route bits s = hostStages chan route bits s := by
  simp only [hostInterleaved, hostStages, hn, bind, Except.bind]

end

/-- Settles O59: a faulted block refuses NEWSEQ in both orders; else both give `receivedBit` of each symbol, or the error of the
first MOD without an amplitude. -/
theorem stagesMayBeInterleaved : Obligations.StagesMayBeInterleaved := by
  intro w link route bits s hw hbits
  by_cases h : s.block.fault = .noFault
  · obtain ⟨t, v, hn, ht⟩ := issue_newseq_of_noFault hw h
    rw [hostInterleaved_of_newseq hn]
    cases hv : t.block.ampV with
    | true =>
      have hlink (x : Int) : dataFits w (link x).val = true := (dataFits_iff _).mpr (link x).2
      have hruns : t.block.RunsWith t.block.amplitude := ⟨ht, hv, rfl⟩
      rw [hostElements_with_amplitude hw hlink route hruns hbits]
      exact (hostStages_with_amplitude hw hlink route hn hruns hbits).symm
    | false =>
      cases bits with
      | nil => simp only [hostElements, hostStages, hn, List.map_nil, issueAll, bind, Except.bind, pure, Except.pure]
      | cons bit bits =>
        rw [hostElements_without_amplitude hw _ route ht hv (hbits bit List.mem_cons_self),
          hostStages_without_amplitude hw _ route hn ht hv hbits]
  · exact hostInterleaved_eq_hostStages_of_error (issue_of_faulted (by omega) h (newseq_wellFormed hw)) _ _ route

end Sys2Proof.Machine
end

section
/-! Faults: what a cycle without a reset does to FAULT, and what every run without a reset keeps (R131 to R140). -/

namespace Sys2Proof.Machine

variable {w : Nat}

/-! ### The cycle the pins ask for (R150) -/

theorem PortIn.cycle_eq_command_iff {p : PortIn w} {cmd : CmdWord w} :
    p.cycle = .command cmd ↔ p.rst = false ∧ p.cmdValid = true ∧ p.cmd = cmd := by
  obtain ⟨rst, cmdValid, word⟩ := p
  cases rst <;> cases cmdValid <;> simp [PortIn.cycle]

theorem PortIn.cycle_ne_reset {p : PortIn w} (h : p.rst = false) : p.cycle ≠ .reset := by
  cases hv : p.cmdValid with
  | false => rw [PortIn.cycle_of_idle h hv]; nofun
  | true => rw [PortIn.cycle_of_command h hv]; nofun

/-- The block sees a command exactly when `cmd_valid and not rst`. -/
theorem State.exists_cycle_eq_command_iff {s : State w} :
    (∃ cmd, s.cycle = .command cmd) ↔ ∃ p rest, s.inputs = p :: rest ∧ p.cmdValid = true ∧ p.rst = false := by
  cases hin : s.inputs with
  | nil => simp [State.cycle_nil hin]
  | cons p rest => simp [State.cycle_cons hin, PortIn.cycle_eq_command_iff, and_comm]

/-- No reset in the next `k + 1` cycles: none now, and none in the `k` cycles after. -/
theorem State.cycle_ne_reset_and_tail {s : State w} {k : Nat} (h : ∀ p ∈ s.inputs.take (k + 1), p.rst = false) :
    s.cycle ≠ .reset ∧ ∀ p ∈ s.inputs.tail.take k, p.rst = false := by
  cases hin : s.inputs with
  | nil =>
    rw [State.cycle_nil hin]
    exact ⟨nofun, by simp⟩
  | cons p rest =>
    rw [hin, List.take_succ_cons, List.forall_mem_cons] at h
    obtain ⟨hp, hrest⟩ := h
    rw [State.cycle_cons hin]
    exact ⟨PortIn.cycle_ne_reset hp, hrest⟩

/-- R150: only a command is answered. -/
theorem stepAt_rsp_isSome_iff {s t : State w} (h : stepAt s = .next t) :
    t.rsp.isSome = true ↔ ∃ cmd, s.cycle = .command cmd := by
  obtain ⟨hc, rfl⟩ | ⟨hc, rfl⟩ | ⟨cmd, hc, rfl⟩ := stepAt_cases h <;> simp [hc]

/-- Settles O11: every step has a next state, whose response is the answer to a command the pins present. -/
theorem everyStepAnswers : Obligations.EveryStepAnswers := by
  intro s
  obtain ⟨t, ht⟩ := stepAt_total s
  exact ⟨t, step_eq_stepAt ▸ ht, stepAt_inputs ht,
    (stepAt_rsp_isSome_iff ht).trans State.exists_cycle_eq_command_iff⟩

/-! ### The table of R131 -/

/-- Settles O42: a block without a fault executes the command or takes the cause of the table; a faulted one stays as it is. -/
theorem faultTableIsComplete : Obligations.FaultTableIsComplete := by
  refine ⟨fun i s => ⟨fun h hc => ?_, exec_of_cause, fun h => ?_⟩,
    fun w i b => ⟨fun h hc => ?_, fun h hc => command_of_cause h hc, fun h => ?_⟩⟩
  · exact ⟨_, _, exec_of_executes h hc, (s.block.written_fault i).trans h, rfl⟩
  · exact ⟨_, exec_is_command i s, (command_of_faulted h i).1⟩
  · rw [command_of_executes h hc]
    exact ⟨(b.written_fault i).trans h, rfl⟩
  · exact (command_of_faulted h i).1

/-! ### One cycle without a reset (R135, R136, R153) -/

/-- A faulted block stands still. -/
theorem stepAt_block_of_faulted {s t : State w} (hr : s.cycle ≠ .reset) (h : stepAt s = .next t)
    (hf : s.block.fault ≠ .noFault) : t.block = s.block := by
  obtain ⟨hc, -⟩ | ⟨-, rfl⟩ | ⟨cmd, -, rfl⟩ := stepAt_cases h
  · exact absurd hc hr
  · rfl
  · exact (command_of_faulted hf (decode cmd)).1

theorem allExecuted_cons (r : Option (Response w)) (rs : List (Option (Response w))) :
    allExecuted (r :: rs) = (allExecuted [r] && allExecuted rs) := by
  simp [allExecuted]

/-- The block is without a fault after the cycle exactly when it was before and the cycle's response, if any, had `ERR = 0`. -/
theorem stepAt_noFault_iff {s t : State w} (hr : s.cycle ≠ .reset) (h : stepAt s = .next t) :
    s.block.fault = .noFault ∧ allExecuted [t.rsp] = true ↔ t.block.fault = .noFault := by
  by_cases hf : s.block.fault = .noFault
  · obtain ⟨hc, -⟩ | ⟨-, rfl⟩ | ⟨cmd, -, rfl⟩ := stepAt_cases h
    · exact absurd hc hr
    · simp [hf, allExecuted]
    · simp [hf, allExecuted, Block.step, command_err]
  · rw [stepAt_block_of_faulted hr h hf]
    exact and_iff_left_of_imp fun hno => absurd hno hf

/-! ### Runs without a reset (R136, R138) -/

/-- `k` cycles, none of them a reset, lead from the first state to the second. -/
inductive RunsWithoutReset : Nat → State w → State w → Prop where
  | zero (s : State w) : RunsWithoutReset 0 s s
  | succ {k : Nat} {s s' t : State w} (hr : s.cycle ≠ .reset) (hs : stepAt s = .next s')
      (hrest : RunsWithoutReset k s' t) : RunsWithoutReset (k + 1) s t

/-- A run of the machine with no reset on the pins is such a run. -/
theorem runsWithoutReset_of_run (hw : Config.ValidWidth w) {k : Nat} {s t : State w}
    (hins : ∀ p ∈ s.inputs.take k, p.rst = false) (hrun : Host.Core.run (coreAt w hw) k s = .next t) :
    RunsWithoutReset k s t := by
  induction k generalizing s with
  | zero => cases hrun; exact .zero _
  | succ k ih =>
    obtain ⟨s', hs⟩ := stepAt_total s
    obtain ⟨hr, htail⟩ := State.cycle_ne_reset_and_tail hins
    rw [← stepAt_inputs hs] at htail
    exact .succ hr hs (ih htail ((runAt_succ hs k).symm.trans hrun))

theorem runsWithoutReset_of_core {k : Nat} {s t : State} (hins : ∀ p ∈ s.inputs.take k, p.rst = false)
    (hrun : Host.Core.run core k s = .next t) : RunsWithoutReset k s t :=
  runsWithoutReset_of_run Config.validWidth_W hins ((run_core_eq k s).symm.trans hrun)

/-- A faulted block stands still, however long it runs. -/
theorem RunsWithoutReset.block_of_faulted {k : Nat} {s t : State w} (h : RunsWithoutReset k s t)
    (hf : s.block.fault ≠ .noFault) : t.block = s.block := by
  induction h with
  | zero => rfl
  | succ hr hs _ ih =>
    have hsame := stepAt_block_of_faulted hr hs hf
    exact (ih (hsame ▸ hf)).trans hsame

/-- The block is without a fault at the end exactly when it was at the start and every response had `ERR = 0`. -/
theorem RunsWithoutReset.noFault_iff {k : Nat} {s t : State w} (h : RunsWithoutReset k s t) :
    s.block.fault = .noFault ∧ allExecuted (transcript k s) = true ↔ t.block.fault = .noFault := by
  induction h with
  | zero => exact and_iff_left rfl
  | succ hr hs _ ih =>
    rw [transcript_succ hs, allExecuted_cons, Bool.and_eq_true, ← and_assoc, stepAt_noFault_iff hr hs]
    exact ih

/-- Settles O44: every command but RDSTAT tests FAULT first and is refused; over a run, FAULT is NONE as long as ERR is. -/
theorem faultedBlockRefusesEveryCommand : Obligations.FaultedBlockRefusesEveryCommand := by
  refine ⟨fun i s h => ⟨fun hi => ?_, ?_⟩, fun k s t h hins hrun => ?_⟩
  · rw [exec_is_command, command_eq_refuse h hi]
    rfl
  · rintro ⟨data, rfl⟩
    exact exec_is_command (.rdstat data) s
  · rw [← (runsWithoutReset_of_core hins hrun).noFault_iff]
    exact (and_iff_right h).symm

/-- Settles O45: no cycle of the run is a reset, and no other cycle changes a faulted block. -/
theorem firstFaultStaysUntilReset : Obligations.FirstFaultStaysUntilReset :=
  fun _ _ _ hf hins hrun => (runsWithoutReset_of_core hins hrun).block_of_faulted hf

end Sys2Proof.Machine
end

section
/-! Reset and hazards: reset and idle cycles, and what crosses a sequence boundary when NEWSEQ is left out (R150 to R158). -/

namespace Sys2Proof.Machine

variable {w : Nat}

/-! ### Reset (R151) -/

/-- The block sees a reset only when the pins show one. -/
theorem State.exists_rst_of_cycle_eq_reset {s : State w} (h : s.cycle = .reset) :
    ∃ p rest, s.inputs = p :: rest ∧ p.rst = true := by
  cases hin : s.inputs with
  | nil =>
    rw [State.cycle_nil hin] at h
    cases h
  | cons p rest =>
    rw [State.cycle_cons hin] at h
    exact ⟨p, rest, rfl, by_contra fun hr => PortIn.cycle_ne_reset (Bool.eq_false_of_not_eq_true hr) h⟩

/-- Settles O8: the step under `rst` is a reset cycle, and a cycle that is no reset leaves a faulted block as it is. -/
theorem resetAndNothingElseClearsFault : Obligations.ResetAndNothingElseClearsFault := by
  refine ⟨fun s p rest hin hr => ?_, fun s t ht hf hno => ?_⟩
  · rw [step_eq_stepAt]
    exact stepAt_of_rst hin hr
  · refine State.exists_rst_of_cycle_eq_reset (by_contra fun hr => hf ?_)
    have hsame := stepAt_block_of_faulted hr (step_eq_stepAt ▸ ht) hf
    rw [← hsame, hno]

/-! ### Idle cycles (R153) -/

/-- By induction on the idle cycles, from a port that shows nothing; there may be none of them. -/
theorem run_of_no_commands {idle : List (PortIn Config.W)} (hidle : ∀ p ∈ idle, p.rst = false ∧ p.cmdValid = false)
    (b : Block Config.W) (rest : List (PortIn Config.W)) :
    Host.Core.run core idle.length ({ block := b, inputs := idle ++ rest, rsp := none } : State) =
      .next { block := b, inputs := rest, rsp := none } := by
  induction idle with
  | nil => rfl
  | cons p more ih =>
    obtain ⟨⟨hr, hv⟩, hmore⟩ := List.forall_mem_cons.mp hidle
    exact (run_succ (step_eq_stepAt ▸ stepAt_of_no_command rfl hr hv) _).trans (ih hmore)

/-- Settles O9: the first idle cycle clears the response port, and the others change nothing. -/
theorem idleCyclesChangeNothing : Obligations.IdleCyclesChangeNothing := by
  refine ⟨fun idle rest s hne hin hidle => ?_, fun s hin => ?_⟩
  · cases idle with
    | nil => exact absurd rfl hne
    | cons p more =>
      obtain ⟨⟨hr, hv⟩, hmore⟩ := List.forall_mem_cons.mp hidle
      exact (run_succ (step_eq_stepAt ▸ stepAt_of_no_command hin hr hv) _).trans (run_of_no_commands hmore s.block rest)
  · rw [step_eq_stepAt, stepAt_of_idle (State.cycle_nil hin), State.idleCycle, State.nextCycle, hin, List.tail_nil]

/-! ### AMI_PAR across sequences (R155, R158) -/

/-- Settles O20: ENC.AMI goes on from an odd count, and the absolute value of `decode_ami` does not see the inverted signs. -/
theorem missingNewseqInvertsEverySign : Obligations.MissingNewseqInvertsEverySign := by
  intro w bits s rest hw h hp hbits hin
  refine ⟨?_, (decodeAmi_map_neg _).trans (decodeAmi_encodeAmi hbits)⟩
  rw [transcript_encAmi hw h hbits hin, hp]
  rfl

theorem isBit_of_encAmi_executes {b : Block w} {bit : Int} (hc : causeRaised b (.encAmi bit) = .noFault) :
    bit = 0 ∨ bit = 1 := by
  by_contra hbit
  have hraised : causeRaised b (.encAmi bit) = .invalidParameter := if_neg hbit
  rw [hraised] at hc
  cases hc

/-- Of the commands that execute, only these two write AMI_PAR: ENC.AMI 0 writes back what it read (R71). -/
theorem newseq_or_encAmi_one_of_written {b : Block w} {i : Instr} (hc : causeRaised b i = .noFault)
    (h : (b.written i).amiPar ≠ b.amiPar) : (∃ data, i = .newseq data) ∨ i = .encAmi 1 := by
  cases i with
  | newseq data => exact .inl ⟨data, rfl⟩
  | encAmi bit =>
    obtain rfl | rfl := isBit_of_encAmi_executes hc
    · exact absurd rfl h
    · exact .inr rfl
  | _ => exact absurd rfl h

/-- Settles O50: a command that executes writes `Block.written`; a fault entry or a refusal leaves AMI_PAR. -/
theorem onlyEncAmiAndNewseqTouchTheParity : Obligations.OnlyEncAmiAndNewseqTouchTheParity := by
  intro i s t ht h
  obtain rfl := exec_next ht
  obtain ⟨-, hc, -, hb⟩ | ⟨-, hb⟩ := command_cases s.block i
  · exact newseq_or_encAmi_one_of_written hc fun hsame => h ((congrArg Block.amiPar hb).trans hsame)
  · exact absurd (congrArg Block.amiPar hb) h

end Sys2Proof.Machine
end
